-- ==== Sys2Proof/Word.lean ====
section
/-! DEFINITION. The word types of the block (R10): MEM cells, host bus data, and the 64-bit SEED, TAPS and STATE. -/

namespace Sys2Proof

/-- One MEM cell (R10). -/
abbrev Byte := BitVec 8

/-- Host bus data, a register, a CMD word (R10, R24, R90). -/
abbrev Word := BitVec 32

/-- SEED, TAPS and STATE (R10, R12). -/
abbrev DWord := BitVec 64

end Sys2Proof
end

