-- ==== Sys2Proof/Config.lean ====
section
/-! DEFINITION. The parameters of R9 and the one free value of the spec: MEM after reset (R241, 93 X1). -/

namespace Sys2Proof

/-- LEN_MAX: the largest register length (R9, R29). -/
def Config.lenMax : Nat := 64

/-- The default of the parameter MEM_BYTES (R9, D10). A state carries its own value in `memBytes`, so a statement over
all states is about every value of the parameter (log 3). -/
def Config.memBytesDefault : Nat := 4096

/-- The largest value of the parameter MEM_BYTES (R9). -/
def Config.memBytesMax : Nat := 65536

/-- FREE VALUE (R241, X1, log 1): what MEM byte `a` holds after the reset that made draw number `n`, until it is
written. It has no body: nothing can be proved of its value. -/
opaque Config.memDraw (n a : Nat) : Byte

end Sys2Proof
end

