-- ==== Sys2Proof/Machine/State.lean ====
section
/-! DEFINITION. The state of the block as plain data (R18, R20, R46), what the host does to it (R60, R240), and the state right after reset (R47). -/

namespace Sys2Proof.Machine

/-- CTRL.KEYCHK: the short-key policy of XOR (R30). The field never holds 3. -/
inductive KeyPolicy where
  | clamp
  | rejectShort
  | rejectUnequal
  deriving DecidableEq, Repr

/-- The error codes of STATUS.ERR (R210). Codes 0x0A..0xFF are never written. -/
inductive ErrCode where
  | none
  | seedLen
  | seedChar
  | lenRange
  | tapRange
  | keyLen
  | range
  | overlap
  | badUnit
  | badCmd
  deriving DecidableEq, Repr

/-- The size of a bus transaction: 1, 2 or 4 bytes (R60). -/
inductive Size where
  | b1
  | b2
  | b4
  deriving DecidableEq, Repr

/-- A host bus transaction: kind, 17-bit offset, size, and data for a write (R60). -/
inductive Transaction where
  | read (offset : BitVec 17) (size : Size)
  | write (offset : BitVec 17) (size : Size) (data : Word)
  deriving DecidableEq, Repr

/-- What every response says (R60). -/
inductive BusStatus where
  | okay
  | buserr
  deriving DecidableEq, Repr

/-- The response to a transaction: a read's response carries data, a write's does not (R60). -/
structure Response where
  status : BusStatus
  data   : Option Word
  deriving DecidableEq, Repr

/-- What can happen next: one turn of one of the two agents (R17, R73), or a change of the reset input (R240). -/
inductive Event where
  | host (t : Transaction)
  | engine
  | assertReset
  | releaseReset
  deriving DecidableEq, Repr

/-- MEM as the list of the bytes written since the last reset, addresses strictly rising. An unlisted address holds no
written value (log 2). -/
abbrev Memory := List Host.Cell

/-- The state of the block. BUSY is not a field of its own: BUSY = 1 exactly when PEND is not none (R46). -/
structure State where
  /-- CTRL.LEN (R29). -/
  len      : BitVec 7
  /-- CTRL.KEYCHK (R30). -/
  keychk   : KeyPolicy
  /-- STATUS.DONE (R33). -/
  done     : Bool
  /-- STATUS.OVR (R34). -/
  ovr      : Bool
  /-- STATUS.OBIT (R35). -/
  obit     : Bool
  /-- STATUS.ERR (R36). -/
  err      : ErrCode
  /-- SEEDCTL.CNT (R39). -/
  cnt      : BitVec 7
  /-- SEEDCTL.BAD (R39). -/
  bad      : Bool
  /-- SEED_HI:SEED_LO (R41). -/
  seed     : DWord
  /-- TAPS_HI:TAPS_LO (R42). -/
  taps     : DWord
  /-- STATE_HI:STATE_LO (R43). -/
  state    : DWord
  /-- ADDR_A (R44). -/
  addrA    : Word
  /-- LEN_A (R44). -/
  lenA     : Word
  /-- ADDR_B (R44). -/
  addrB    : Word
  /-- LEN_B (R44). -/
  lenB     : Word
  /-- ADDR_D (R44). -/
  addrD    : Word
  /-- The parameter MEM_BYTES, which MEMSIZE reads (R45); no step changes it (R47, log 3). -/
  memBytes : Nat
  /-- MEM: the bytes written since the last reset (R68, R241). -/
  mem      : Memory
  /-- The hidden latch PEND: none, or the accepted CMD word (R46). -/
  pend     : Option Word
  /-- The level of the reset input (R240). -/
  inReset  : Bool
  /-- The model's own: which draw the unwritten MEM bytes hold (R241, log 1). -/
  draw     : Nat
  /-- The model's own: what the agents do next, in order (R73, R214, log 4). -/
  agenda   : List Event
  /-- The model's own: the response to the latest transaction (R60, log 6). -/
  resp     : Option Response
  deriving DecidableEq, Repr

/-- The faults: what the spec gives no meaning. -/
inductive Fault where
  /-- Raised by the host's turn: a transaction issued while reset is asserted gets no defined response (R240, X4).
  Safe: the model stops where the spec defines nothing. -/
  | transactionInReset
  deriving DecidableEq, Repr

/-- The refusals. -/
inductive Refusal where
  /-- Raised by exec alone, for a command that has no meaning yet. Safe: the model stops. No arm raises it. -/
  | notModelled (mnemonic : String)
  deriving DecidableEq, Repr

/-- The block right after reset is released: every register at its value of R47, MEM undrawn (R241), nothing pending,
nothing to come. -/
def State.reset : State where
  len      := 33
  keychk   := .rejectUnequal
  done     := false
  ovr      := false
  obit     := false
  err      := .none
  cnt      := 0
  bad      := false
  seed     := 0
  taps     := 0x0000000100001000
  state    := 0
  addrA    := 0
  lenA     := 0
  addrB    := 0
  lenB     := 0
  addrD    := 0
  memBytes := Config.memBytesDefault
  mem      := []
  pend     := none
  inReset  := false
  draw     := 0
  agenda   := []
  resp     := none

end Sys2Proof.Machine
end

