-- ==== Sys2Proof/Machine/Ops.lean ====
section
/-! DEFINITION. The named operations over bits, loops, MEM and the command lifecycle. -/

namespace Sys2Proof.Machine

/-! ## Pseudocode primitives (R11, R15) -/

/-- `for i in 0..n` (R15): the body runs for i = 0, 1, ..., n-1, in that order. -/
def forUp {σ : Type} (n : Nat) (body : Nat → σ → σ) (x : σ) : σ :=
  match n with
  | 0 => x
  | k + 1 => body k (forUp k body x)

/-- Whether `p` holds of 0, 1, ..., n-1. -/
def allBelow (n : Nat) (p : Nat → Bool) : Bool :=
  match n with
  | 0 => true
  | k + 1 => allBelow k p && p k

/-- `ones(n)`: bits n-1..0 are 1 (R11). -/
def ones (n : Nat) : DWord := BitVec.ofNat 64 (2 ^ n - 1)

/-- `parity(v)`: the exclusive-or of all bits of v (R11). -/
def parity (v : DWord) : Bool := forUp 64 (fun i p => p ^^ v.getLsbD i) false

/-- A unit: 0x00 for bit 0 and 0x01 for bit 1 (R97). -/
def unitByte (b : Bool) : Byte := if b then 0x01 else 0x00

/-- Whether a byte is a unit (R97, R192). -/
def isUnit (v : Byte) : Bool := v == 0x00 || v == 0x01

/-! ## MEM (R13, R68, R241) -/

/-- The byte written at an address, if one was written since the last reset. -/
def Memory.find : Memory → Nat → Option Byte
  | [], _ => none
  | (b, v) :: m, a => if a = b then some v else Memory.find m a

/-- Write a byte, keeping the addresses strictly rising. -/
def Memory.put : Memory → Nat → Byte → Memory
  | [], a, v => [(a, v)]
  | (b, u) :: m, a, v =>
    if a < b then (a, v) :: (b, u) :: m
    else if a = b then (a, v) :: m
    else (b, u) :: Memory.put m a v

/-- The canonical form: addresses strictly rising, so that memories with the same written bytes are equal lists (log 2). -/
def Memory.wf : Memory → Bool
  | [] => true
  | (a, _) :: m => m.all (fun c => decide (a < c.1)) && Memory.wf m

/-- MEM[a] (R13): the byte last written since reset, else the free draw of R241. -/
def State.readByte (s : State) (a : Nat) : Byte :=
  (Memory.find s.mem a).getD (Config.memDraw s.draw a)

/-- MEM[a] <- v (R13). -/
def State.writeByte (s : State) (a : Nat) (v : Byte) : State :=
  { s with mem := Memory.put s.mem a v }

/-- MemRead(k, n), least significant byte first, zero-extended to 32 bits (R13, R62, R64). -/
def State.memRead (s : State) (k n : Nat) : Word :=
  forUp n (fun i v => v ||| ((s.readByte (k + i)).setWidth 32 <<< (8 * i))) 0

/-- MemWrite(k, n, v), least significant byte first (R13, R62, R64). -/
def State.memWrite (s : State) (k n : Nat) (v : Word) : State :=
  forUp n (fun i t => t.writeByte (k + i) ((v >>> (8 * i)).setWidth 8)) s

/-! ## The command lifecycle -/

/-- STATUS.BUSY: 1 exactly when PEND is not none (R32, R46). -/
def State.busy (s : State) : Bool := s.pend.isSome

/-- An accepted CMD write of word w (R121): no check is made, OVR and OBIT stay. -/
def State.accept (s : State) (w : Word) : State :=
  { s with pend := some w, done := false, err := .none }

/-- Completion (R124). With a code other than `none` this is error entry, the block's only exception (R14, R215); there
is no return from it (R216). -/
def State.complete (s : State) (code : ErrCode) : State :=
  { s with err := code, done := true, pend := none }

/-- A check of R125: whether it passes, and the code it fails with. -/
abbrev Check := Bool × ErrCode

/-- The code of the first check that fails (R125, R214). -/
def firstError : List Check → Option ErrCode
  | [] => none
  | (ok, code) :: rest => if ok then firstError rest else some code

/-- A command: all its checks, in order, before any write; `fail(CODE)` at the first that fails, else its effect; then
completion (R14, R123, R124, R125). -/
def State.command (s : State) (checks : List Check) (effect : State → State) : Host.Outcome State Fault Refusal :=
  match firstError checks with
  | some code => .next (s.complete code)
  | none => .next ((effect s).complete .none)

/-! ## Reset (R240 to R242) -/

/-- Reset asserted: every register at its value of R47, the pending command abandoned (R242), every MEM byte a new
draw (R241). MEM_BYTES, a constant (R47), and the events to come stay. -/
def State.assertReset (s : State) : State :=
  { State.reset with memBytes := s.memBytes, draw := s.draw + 1, inReset := true, agenda := s.agenda }

/-- Reset released: the block accepts transactions at once (R240). -/
def State.releaseReset (s : State) : State := { s with inReset := false }

end Sys2Proof.Machine
end

