-- ==== Sys2Proof/Machine/Operands.lean ====
section
/-! DEFINITION. The operands of commands (R93), their regions (R13, R44) and the common checks on them (R125 to R128). -/

namespace Sys2Proof.Machine

/-- A region (a, n): the byte offsets a, ..., a+n-1, in unbounded integers (R11, R13). -/
structure Region where
  start : Nat
  size  : Nat
  deriving DecidableEq, Repr

/-- A region is valid when it is empty or lies inside MEM (R127). -/
def Region.valid (r : Region) (memBytes : Nat) : Bool :=
  decide (r.size = 0) || decide (r.start + r.size ≤ memBytes)

/-- Whether two regions overlap (R128). -/
def Region.overlaps (p q : Region) : Bool :=
  decide (0 < p.size) && decide (0 < q.size) &&
    decide (p.start < q.start + q.size) && decide (q.start < p.start + p.size)

/-- `disjoint(Dst, Src)` (R128). -/
def Region.disjoint (dst src : Region) : Bool := !dst.overlaps src

/-- `aligned_or_disjoint(Dst, Src)` (R128). -/
def Region.alignedOrDisjoint (dst src : Region) : Bool :=
  !dst.overlaps src || decide (dst.start = src.start)

/-- R: CTRL.LEN, zero-extended (R93). -/
def State.regLen (s : State) : Nat := s.len.toNat

/-- a: ADDR_A (R93). -/
def State.a (s : State) : Nat := s.addrA.toNat

/-- la, and GEN's count n: LEN_A (R93). -/
def State.la (s : State) : Nat := s.lenA.toNat

/-- b: ADDR_B (R93). -/
def State.b (s : State) : Nat := s.addrB.toNat

/-- lb: LEN_B (R93). -/
def State.lb (s : State) : Nat := s.lenB.toNat

/-- d: ADDR_D (R93). -/
def State.d (s : State) : Nat := s.addrD.toNat

/-- 1 <= CTRL.LEN <= 64, else LEN_RANGE (R126). -/
def State.lenCheck (s : State) : Check :=
  (decide (1 ≤ s.regLen) && decide (s.regLen ≤ Config.lenMax), .lenRange)

/-- SEEDCTL.BAD = 0, else SEED_CHAR (R143). -/
def State.seedCharCheck (s : State) : Check := (!s.bad, .seedChar)

/-- SEEDCTL.CNT = R, else SEED_LEN (R143). -/
def State.seedLenCheck (s : State) : Check := (decide (s.cnt.toNat = s.regLen), .seedLen)

/-- No tap above R, else TAP_RANGE (R144). -/
def State.tapCheck (s : State) : Check := (s.taps &&& ~~~(ones s.regLen) == 0, .tapRange)

/-- Every region inside MEM, else RANGE (R127). -/
def State.rangeCheck (s : State) (rs : List Region) : Check :=
  (rs.all (fun r => r.valid s.memBytes), .range)

/-- The overlap conditions a command requires, else OVERLAP (R128). -/
def overlapCheck (ok : Bool) : Check := (ok, .overlap)

/-- The short-key policy CTRL.KEYCHK, else KEY_LEN (R30, R172). -/
def State.keyCheck (s : State) : Check :=
  (match s.keychk with
   | .clamp => true
   | .rejectShort => decide (s.la ≤ s.lb)
   | .rejectUnequal => decide (s.lb = s.la), .keyLen)

/-- Every byte of the region a unit, else BAD_UNIT (R192). -/
def State.unitCheck (s : State) (r : Region) : Check :=
  (allBelow r.size (fun i => isUnit (s.readByte (r.start + i))), .badUnit)

end Sys2Proof.Machine
end

