-- ==== Sys2Proof/Machine/Flags.lean ====
section
/-! DEFINITION. The flags and fields of CTRL, STATUS and SEEDCTL as words, and every rule that sets or clears one outside a command (R28 to R39). -/

namespace Sys2Proof.Machine

/-- A flag as a 32-bit value. -/
def flagWord (f : Bool) : Word := if f then 1 else 0

/-- The number of an error code (R210). -/
def ErrCode.toWord : ErrCode → Word
  | .none => 0x00
  | .seedLen => 0x01
  | .seedChar => 0x02
  | .lenRange => 0x03
  | .tapRange => 0x04
  | .keyLen => 0x05
  | .range => 0x06
  | .overlap => 0x07
  | .badUnit => 0x08
  | .badCmd => 0x09

/-- The number of a key policy (R30). -/
def KeyPolicy.toWord : KeyPolicy → Word
  | .clamp => 0
  | .rejectShort => 1
  | .rejectUnequal => 2

/-- OBIT as the host reads it: 0 while busy (R35, R247). -/
def State.obitRead (s : State) : Bool := s.obit && !s.busy

/-- The value STATUS reads as (R31); reserved bits read 0 (R25). -/
def State.statusWord (s : State) : Word :=
  flagWord s.busy ||| (flagWord s.done <<< 1) ||| (flagWord s.ovr <<< 2) |||
    (flagWord s.obitRead <<< 3) ||| (s.err.toWord <<< 8)

/-- The value CTRL reads as (R28); reserved bits read 0 (R25). -/
def State.ctrlWord (s : State) : Word :=
  s.len.setWidth 32 ||| (s.keychk.toWord <<< 8)

/-- The value SEEDCTL reads as (R39); reserved bits read 0 (R25). -/
def State.seedctlWord (s : State) : Word :=
  s.cnt.setWidth 32 ||| (flagWord s.bad <<< 8)

/-- A write to KEYCHK: the value 3 leaves the field unchanged (R30). -/
def KeyPolicy.written (old : KeyPolicy) (v : BitVec 2) : KeyPolicy :=
  if v = 0 then .clamp else if v = 1 then .rejectShort else if v = 2 then .rejectUnequal else old

/-- A write to CTRL (R28, R29, R30). -/
def State.writeCtrl (s : State) (v : Word) : State :=
  { s with len := v.extractLsb' 0 7, keychk := s.keychk.written (v.extractLsb' 8 2) }

/-- A write to STATUS: DONE and OVR are cleared by writing 1, every other bit is ignored (R31). -/
def State.writeStatus (s : State) (v : Word) : State :=
  { s with done := s.done && !v.getLsbD 1, ovr := s.ovr && !v.getLsbD 2 }

/-- A write to SEEDCTL (R39). -/
def State.writeSeedctl (s : State) (v : Word) : State :=
  { s with cnt := v.extractLsb' 0 7, bad := v.getLsbD 8 }

/-- A write ignored because BUSY = 1 (R34, R246). -/
def State.overrun (s : State) : State := { s with ovr := true }

end Sys2Proof.Machine
end

