-- ==== Sys2Proof/Machine/Bus.lean ====
section
/-! DEFINITION. Host bus transactions: the address map, register and window accesses, and the busy filters (R24, R60 to R69, R141, R246, R247). -/

namespace Sys2Proof.Machine

/-- The registers of R24. -/
inductive Reg where
  | ctrl
  | status
  | cmd
  | seedctl
  | seedchr
  | seedLo
  | seedHi
  | tapsLo
  | tapsHi
  | stateLo
  | stateHi
  | addrA
  | lenA
  | addrB
  | lenB
  | addrD
  | memsize
  deriving DecidableEq, Repr

/-- The register at a word index of the register range: offset / 4 (R24). -/
def regAt : Nat → Option Reg
  | 0 => some .ctrl
  | 1 => some .status
  | 2 => some .cmd
  | 3 => some .seedctl
  | 4 => some .seedchr
  | 5 => some .seedLo
  | 6 => some .seedHi
  | 7 => some .tapsLo
  | 8 => some .tapsHi
  | 9 => some .stateLo
  | 10 => some .stateHi
  | 11 => some .addrA
  | 12 => some .lenA
  | 13 => some .addrB
  | 14 => some .lenB
  | 15 => some .addrD
  | 16 => some .memsize
  | _ => none

/-- The offset of a register (R24). -/
def Reg.offset : Reg → BitVec 17
  | .ctrl => 0x000
  | .status => 0x004
  | .cmd => 0x008
  | .seedctl => 0x00C
  | .seedchr => 0x010
  | .seedLo => 0x014
  | .seedHi => 0x018
  | .tapsLo => 0x01C
  | .tapsHi => 0x020
  | .stateLo => 0x024
  | .stateHi => 0x028
  | .addrA => 0x02C
  | .lenA => 0x030
  | .addrB => 0x034
  | .lenB => 0x038
  | .addrD => 0x03C
  | .memsize => 0x040

/-- The number of bytes of a size (R60). -/
def Size.bytes : Size → Nat
  | .b1 => 1
  | .b2 => 2
  | .b4 => 4

/-- What a well-formed access reaches: a register, or MEM from offset k on. -/
inductive Target where
  | reg (r : Reg)
  | window (k : Nat)
  deriving DecidableEq, Repr

/-- What an access reaches; none is BUSERR (R61, R62, R63, R69). -/
def State.target (s : State) (offset : BitVec 17) (size : Size) : Option Target :=
  if offset.toNat < 0x44 then
    if size = .b4 ∧ offset.toNat % 4 = 0 then (regAt (offset.toNat / 4)).map .reg else none
  else if offset.toNat < 0x10000 then none
  else if (offset.toNat - 0x10000) % size.bytes = 0 ∧ offset.toNat - 0x10000 + size.bytes ≤ s.memBytes then
    some (.window (offset.toNat - 0x10000))
  else none

/-- The low and the high word of SEED, TAPS and STATE (R12, R64). -/
def loWord (v : DWord) : Word := v.extractLsb' 0 32

/-- The high word (R12, R64). -/
def hiWord (v : DWord) : Word := v.extractLsb' 32 32

/-- A 64-bit value with its low word replaced. -/
def withLo (v : DWord) (w : Word) : DWord := hiWord v ++ w

/-- A 64-bit value with its high word replaced. -/
def withHi (v : DWord) (w : Word) : DWord := w ++ loWord v

/-- STATE as the host reads it: 0 while busy (R43, R247). -/
def State.stateRead (s : State) : DWord := if s.busy then 0 else s.state

/-- The value a register reads as (R24, R27, R45, R247). -/
def State.readReg (s : State) : Reg → Word
  | .ctrl => s.ctrlWord
  | .status => s.statusWord
  | .cmd => 0
  | .seedctl => s.seedctlWord
  | .seedchr => 0
  | .seedLo => loWord s.seed
  | .seedHi => hiWord s.seed
  | .tapsLo => loWord s.taps
  | .tapsHi => hiWord s.taps
  | .stateLo => loWord s.stateRead
  | .stateHi => hiWord s.stateRead
  | .addrA => s.addrA
  | .lenA => s.lenA
  | .addrB => s.addrB
  | .lenB => s.lenB
  | .addrD => s.addrD
  | .memsize => BitVec.ofNat 32 s.memBytes

/-- x[i] <- v for a 64-bit value (R12). -/
def setBit (x : DWord) (i : Nat) (v : Bool) : DWord :=
  if v then x ||| (1#64 <<< i) else x &&& ~~~(1#64 <<< i)

/-- A SEEDCHR write (R94, R141, R142): a valid character appends its bit (dropped past 64) and CNT saturates at 127;
any other sets BAD. -/
def State.writeSeedchr (s : State) (w : Word) : State :=
  if w.extractLsb' 0 8 = 0x30#8 ∨ w.extractLsb' 0 8 = 0x31#8 then
    { s with
      seed := if s.cnt.toNat < 64 then setBit s.seed s.cnt.toNat (w.getLsbD 0) else s.seed
      cnt := BitVec.ofNat 7 (min (s.cnt.toNat + 1) 127) }
  else { s with bad := true }

/-- A register write while BUSY = 0 (R24, R26, R28 to R45). -/
def State.writeReg (s : State) (r : Reg) (v : Word) : State :=
  match r with
  | .ctrl => s.writeCtrl v
  | .status => s.writeStatus v
  | .cmd => s.accept v
  | .seedctl => s.writeSeedctl v
  | .seedchr => s.writeSeedchr v
  | .seedLo => { s with seed := withLo s.seed v }
  | .seedHi => { s with seed := withHi s.seed v }
  | .tapsLo => { s with taps := withLo s.taps v }
  | .tapsHi => { s with taps := withHi s.taps v }
  | .stateLo => s
  | .stateHi => s
  | .addrA => { s with addrA := v }
  | .lenA => { s with lenA := v }
  | .addrB => { s with addrB := v }
  | .lenB => { s with lenB := v }
  | .addrD => { s with addrD := v }
  | .memsize => s

/-- The data of a well-formed read; a window read while busy gives 0 (R62, R247). -/
def State.busRead (s : State) (t : Target) (size : Size) : Word :=
  match t with
  | .reg r => s.readReg r
  | .window k => if s.busy then 0 else s.memRead k size.bytes

/-- The state after a well-formed write: while busy only STATUS is written, any other write sets OVR (R246). -/
def State.busWrite (s : State) (t : Target) (size : Size) (v : Word) : State :=
  match t with
  | .reg .status => s.writeStatus v
  | .reg r => if s.busy then s.overrun else s.writeReg r v
  | .window k => if s.busy then s.overrun else s.memWrite k size.bytes v

/-- One transaction with its response (R60). BUSERR changes nothing and reads 0 (R63); log 9, log 10. -/
def State.transact (s : State) (t : Transaction) : State × Response :=
  match t with
  | .read offset size =>
    match s.target offset size with
    | some g => (s, ⟨.okay, some (s.busRead g size)⟩)
    | none => (s, ⟨.buserr, some 0⟩)
  | .write offset size v =>
    match s.target offset size with
    | some g => (s.busWrite g size v, ⟨.okay, none⟩)
    | none => (s, ⟨.buserr, none⟩)

/-- The host's turn: one transaction, its response left on the bus (R60). -/
def hostStep (t : Transaction) (s : State) : Host.Outcome State Fault Refusal :=
  if s.inReset then .fault .transactionInReset
  else .next { (s.transact t).1 with resp := some (s.transact t).2 }

end Sys2Proof.Machine
end

