-- ==== Sys2Proof/Syntax.lean ====
section
/-! DEFINITION. The commands: one constructor per row of spec/opcode_table.json (R91, R92). -/

namespace Sys2Proof

/-- The commands of R91. No command has an operand field (R93); a reserved word carries itself, all 32 bits (R92). -/
inductive Instr where
  | nop
  | gen
  | xor
  | unpack
  | pack
  | load
  | step
  | seedclr
  | crypt
  | reserved (word : Word)
  deriving DecidableEq, Repr

end Sys2Proof
end

