-- ==== Sys2Proof/WellFormed.lean ====
section
/-! DEFINITION. Which terms of Instr stand for a CMD word: every legal command, and `reserved w` for an illegal word only. -/

namespace Sys2Proof

/-- R92: a command word is illegal when OP is in 0x09..0xFF or MBZ is not 0. -/
def illegalWord (w : Word) : Bool :=
  decide (0x09 ≤ (w.extractLsb' 0 8).toNat) || w.extractLsb' 8 24 != 0

/-- A well-formed command: `reserved w` only for a word that R92 calls illegal. -/
def Instr.wf : Instr → Bool
  | .nop => true
  | .gen => true
  | .xor => true
  | .unpack => true
  | .pack => true
  | .load => true
  | .step => true
  | .seedclr => true
  | .crypt => true
  | .reserved w => illegalWord w

end Sys2Proof
end

