-- ==== Sys2Proof/Decode.lean ====
section
/-! DEFINITION. From CMD words and bytes to commands and back (R90 to R92). -/

namespace Sys2Proof

/-- A row of the opcode map: a word decodes to `instr` when `word &&& mask = value` (R91). -/
structure OpcodeRow where
  value : Word
  mask  : Word
  instr : Instr
  deriving DecidableEq, Repr

/-- The opcode map of R91: the mask is 0xFFFFFFFF in every row. -/
def opcodeMap : List OpcodeRow :=
  [ ⟨0x00000000, 0xFFFFFFFF, .nop⟩,
    ⟨0x00000001, 0xFFFFFFFF, .gen⟩,
    ⟨0x00000002, 0xFFFFFFFF, .xor⟩,
    ⟨0x00000003, 0xFFFFFFFF, .unpack⟩,
    ⟨0x00000004, 0xFFFFFFFF, .pack⟩,
    ⟨0x00000005, 0xFFFFFFFF, .load⟩,
    ⟨0x00000006, 0xFFFFFFFF, .step⟩,
    ⟨0x00000007, 0xFFFFFFFF, .seedclr⟩,
    ⟨0x00000008, 0xFFFFFFFF, .crypt⟩ ]

/-- The command of a CMD word: the row it matches, or the reserved space where it matches none (R91, R92). Total: the
block accepts every word. -/
def decodeWord (w : Word) : Instr :=
  match opcodeMap.find? (fun r => w &&& r.mask == r.value) with
  | some r => r.instr
  | none => .reserved w

/-- The CMD word of a command (R91); a reserved word is its own encoding (R92). -/
def encode : Instr → Word
  | .nop => 0x00000000
  | .gen => 0x00000001
  | .xor => 0x00000002
  | .unpack => 0x00000003
  | .pack => 0x00000004
  | .load => 0x00000005
  | .step => 0x00000006
  | .seedclr => 0x00000007
  | .crypt => 0x00000008
  | .reserved w => w

/-- Why a byte string is no command: R90 gives one format, 32 bits long. -/
inductive DecodeError where
  /-- Fewer than the four bytes of a CMD word. Safe: no command is shorter (R90). -/
  | shorterThanAWord
  deriving DecidableEq, Repr

/-- The four bytes of a word, least significant first (R64). -/
def wordBytes (w : Word) : List Byte :=
  [w.extractLsb' 0 8, w.extractLsb' 8 8, w.extractLsb' 16 8, w.extractLsb' 24 8]

/-- A command from the front of a byte string, with the rest of it: four bytes, least significant first (R64, R90). -/
def decodeBytes : List Byte → Except DecodeError (Instr × List Byte)
  | b0 :: b1 :: b2 :: b3 :: rest => .ok (decodeWord (b3 ++ b2 ++ b1 ++ b0), rest)
  | _ => .error .shorterThanAWord

/-- The bytes of a command's CMD word. -/
def encodeBytes (i : Instr) : List Byte := wordBytes (encode i)

/-- The command the decoder reads from an instruction whose bits are `w`, numbered as spec/opcode_table.json numbers
them; the bits from `nbits` on are 0. No format is longer than 32 bits (R90). -/
def decodeTableWord (nbits w : Nat) : Option Instr :=
  if nbits ≤ 32 then
    match decodeBytes (wordBytes (BitVec.ofNat 32 (w % 2 ^ nbits))) with
    | .ok (i, _) => some i
    | .error _ => none
  else none

end Sys2Proof
end

