-- ==== Sys2Proof/Machine/Generator.lean ====
section
/-! DEFINITION. The LFSR step and LOAD, STEP and GEN (R145, R150 to R153). -/

namespace Sys2Proof.Machine

/-- The feedback bit, computed before the shift (R145 b, R146). -/
def feedback (v taps : DWord) (len : Nat) : Bool := parity (v &&& taps &&& ones len)

/-- `lfsr_step(S, T, R)`: the output bit and the next state (R145). -/
def lfsrStep (v taps : DWord) (len : Nat) : Bool × DWord :=
  (v.getLsbD 0,
   ((v &&& ones len) >>> 1) ||| ((BitVec.ofBool (feedback v taps len)).setWidth 64 <<< (len - 1)))

/-- STATE <- SEED & ones(R) (R150, R152). -/
def State.loadSeed (s : State) : State := { s with state := s.seed &&& ones s.regLen }

/-- One step of the generator on STATE, its output bit left in OBIT (R151). -/
def State.emit (s : State) : State :=
  { s with
    state := (lfsrStep s.state s.taps s.regLen).2
    obit := (lfsrStep s.state s.taps s.regLen).1 }

/-- LOAD (R150). -/
def execLoad (s : State) : Host.Outcome State Fault Refusal :=
  s.command [s.lenCheck, s.seedCharCheck, s.seedLenCheck] State.loadSeed

/-- STEP (R151). -/
def execStep (s : State) : Host.Outcome State Fault Refusal :=
  s.command [s.lenCheck, s.tapCheck] State.emit

/-- One iteration of GEN: one step, its unit written to MEM[d + i] (R153). -/
def genUnit (d i : Nat) (s : State) : State := s.emit.writeByte (d + i) (unitByte s.emit.obit)

/-- GEN's effect: STATE from SEED, then LEN_A iterations (R152, R153). -/
def State.genEffect (s : State) : State := forUp s.la (genUnit s.d) s.loadSeed

/-- GEN (R153). -/
def execGen (s : State) : Host.Outcome State Fault Refusal :=
  s.command
    [s.lenCheck, s.seedCharCheck, s.seedLenCheck, s.tapCheck, s.rangeCheck [⟨s.d, s.la⟩]]
    State.genEffect

end Sys2Proof.Machine
end

