-- ==== Sys2Proof/Machine/Cipher.lean ====
section
/-! DEFINITION. XOR and CRYPT (R172, R175). -/

namespace Sys2Proof.Machine

/-- m: the number of key bytes XOR reads, min(la, lb) (R172). -/
def State.keyLen (s : State) : Nat := min s.la s.lb

/-- One iteration of XOR: data xor key below m, pass-through from m on (R170, R172). -/
def xorByte (a b d m i : Nat) (s : State) : State :=
  s.writeByte (d + i) (if i < m then s.readByte (a + i) ^^^ s.readByte (b + i) else s.readByte (a + i))

/-- XOR's effect: la iterations in increasing order (R172). -/
def State.xorEffect (s : State) : State := forUp s.la (xorByte s.a s.b s.d s.keyLen) s

/-- XOR (R172). -/
def execXor (s : State) : Host.Outcome State Fault Refusal :=
  s.command
    [s.rangeCheck [⟨s.a, s.la⟩, ⟨s.b, s.lb⟩, ⟨s.d, s.la⟩],
     overlapCheck (Region.alignedOrDisjoint ⟨s.d, s.la⟩ ⟨s.a, s.la⟩),
     overlapCheck (Region.alignedOrDisjoint ⟨s.d, s.la⟩ ⟨s.b, s.keyLen⟩),
     s.keyCheck]
    State.xorEffect

/-- One iteration of CRYPT: one step, data xor its unit written to MEM[d + i] (R175). -/
def cryptByte (a d i : Nat) (s : State) : State :=
  s.emit.writeByte (d + i) (s.readByte (a + i) ^^^ unitByte s.emit.obit)

/-- CRYPT's effect: STATE from SEED, then la iterations (R152, R175). -/
def State.cryptEffect (s : State) : State := forUp s.la (cryptByte s.a s.d) s.loadSeed

/-- CRYPT (R175). -/
def execCrypt (s : State) : Host.Outcome State Fault Refusal :=
  s.command
    [s.lenCheck, s.seedCharCheck, s.seedLenCheck, s.tapCheck,
     s.rangeCheck [⟨s.a, s.la⟩, ⟨s.d, s.la⟩],
     overlapCheck (Region.alignedOrDisjoint ⟨s.d, s.la⟩ ⟨s.a, s.la⟩)]
    State.cryptEffect

end Sys2Proof.Machine
end

