-- ==== Sys2Proof/Machine/Command.lean ====
section
/-! DEFINITION. NOP, SEEDCLR and the reserved words (R92, R129, R130). -/

namespace Sys2Proof.Machine

/-- NOP (R129): skip, then completion. -/
def execNop (s : State) : Host.Outcome State Fault Refusal :=
  s.command [] (fun t => t)

/-- SEED, SEEDCTL.CNT and SEEDCTL.BAD cleared (R130). -/
def State.clearSeed (s : State) : State := { s with seed := 0, cnt := 0, bad := false }

/-- SEEDCLR (R130). -/
def execSeedclr (s : State) : Host.Outcome State Fault Refusal :=
  s.command [] State.clearSeed

/-- A reserved word (R92): fail(BAD_CMD) whatever the word, and no other effect. -/
def execReserved (_word : Word) (s : State) : Host.Outcome State Fault Refusal :=
  s.command [(false, .badCmd)] (fun t => t)

end Sys2Proof.Machine
end

