-- ==== Sys2Proof/Machine/Conversion.lean ====
section
/-! DEFINITION. UNPACK and PACK (R98, R191, R192). -/

namespace Sys2Proof.Machine

/-- One inner iteration of UNPACK: bit 7-k of MEM[a + i] as the unit MEM[d + 8i + k] (R191). -/
def unpackBit (a d i k : Nat) (s : State) : State :=
  s.writeByte (d + 8 * i + k) (unitByte ((s.readByte (a + i)).getLsbD (7 - k)))

/-- UNPACK's effect: la source bytes, eight units each, MSB first (R191). -/
def State.unpackEffect (s : State) : State :=
  forUp s.la (fun i t => forUp 8 (unpackBit s.a s.d i) t) s

/-- UNPACK (R191); 8·la does not wrap. -/
def execUnpack (s : State) : Host.Outcome State Fault Refusal :=
  s.command
    [s.rangeCheck [⟨s.a, s.la⟩, ⟨s.d, 8 * s.la⟩],
     overlapCheck (Region.disjoint ⟨s.d, 8 * s.la⟩ ⟨s.a, s.la⟩)]
    State.unpackEffect

/-- nb: the number of bytes PACK writes, ceil(la / 8) (R192). -/
def State.packLen (s : State) : Nat := (s.la + 7) / 8

/-- Byte j of PACK: units 8j..8j+7 from bit 7 down, units from la on taken as 0 (R192). -/
def State.packedByte (s : State) (a la j : Nat) : Byte :=
  forUp 8
    (fun k v =>
      if 8 * j + k < la then
        v ||| ((BitVec.ofBool ((s.readByte (a + 8 * j + k)).getLsbD 0)).setWidth 8 <<< (7 - k))
      else v)
    0

/-- One outer iteration of PACK (R192). -/
def packByte (a la d j : Nat) (s : State) : State := s.writeByte (d + j) (s.packedByte a la j)

/-- PACK's effect: nb destination bytes (R192). -/
def State.packEffect (s : State) : State := forUp s.packLen (packByte s.a s.la s.d) s

/-- PACK (R192): the unit scan comes before any write. -/
def execPack (s : State) : Host.Outcome State Fault Refusal :=
  s.command
    [s.rangeCheck [⟨s.a, s.la⟩, ⟨s.d, s.packLen⟩],
     overlapCheck (Region.disjoint ⟨s.d, s.packLen⟩ ⟨s.a, s.la⟩),
     s.unitCheck ⟨s.a, s.la⟩]
    State.packEffect

end Sys2Proof.Machine
end

