-- ==== Sys2Proof/Machine/Dispatch.lean ====
section
/-! DEFINITION. The dispatch: one arm per command, each one direct call of its meaning. -/

namespace Sys2Proof.Machine

def exec (i : Instr) (s : State) : Host.Outcome State Fault Refusal :=
  match i with
  | .nop => Sys2Proof.Machine.execNop s
  | .gen => Sys2Proof.Machine.execGen s
  | .xor => Sys2Proof.Machine.execXor s
  | .unpack => Sys2Proof.Machine.execUnpack s
  | .pack => Sys2Proof.Machine.execPack s
  | .load => Sys2Proof.Machine.execLoad s
  | .step => Sys2Proof.Machine.execStep s
  | .seedclr => Sys2Proof.Machine.execSeedclr s
  | .crypt => Sys2Proof.Machine.execCrypt s
  | .reserved w => Sys2Proof.Machine.execReserved w s

end Sys2Proof.Machine
end

