-- ==== Sys2Proof/Machine/Engine.lean ====
section
/-! DEFINITION. The engine's step and the turn of whichever agent moves next (R17, R73, R122, R240). -/

namespace Sys2Proof.Machine

/-- The engine's step (R122): it decodes PEND and runs that command to its completion. With nothing pending it has no
step, and the block waits for the host (R243). -/
def engineStep (s : State) : Host.Outcome State Fault Refusal :=
  match s.pend with
  | some w => exec (decodeWord w) s
  | none => .next s

/-- The first event of the agenda taken off it. -/
def State.popEvent (s : State) : State := { s with agenda := s.agenda.tail }

/-- One turn: the first event of the agenda happens. With an empty agenda the engine has its turn, so that a pending
command is completed (the weak fairness of R251, log 5). -/
def takeTurn (s : State) : Host.Outcome State Fault Refusal :=
  match s.agenda.head? with
  | none => engineStep s
  | some .engine => engineStep s.popEvent
  | some (.host t) => hostStep t s.popEvent
  | some .assertReset => .next s.popEvent.assertReset
  | some .releaseReset => .next s.popEvent.releaseReset

/-- The state in which the engine's turn is next and the word `w` is the command pending: w is accepted (R121), and the
engine moves first (log 7). -/
def State.issue (s : State) (w : Word) : State :=
  { s.accept w with agenda := .engine :: s.agenda }

/-- Events to come after those already to come: how the host's program reaches the block (R21, R99, log 7). -/
def State.enqueue (s : State) (es : List Event) : State := { s with agenda := s.agenda ++ es }

end Sys2Proof.Machine
end

