-- ==== Sys2Proof/Machine/HostProgram.lean ====
section
/-! DEFINITION. The host program forms of R99 and the expansions of R100, as lists of events. -/

namespace Sys2Proof.Machine

/-- The offset `MEM+k` (R99). -/
def memOffset (k : Nat) : BitVec 17 := BitVec.ofNat 17 (0x10000 + k)

/-- `wr32 OFF, V` (R99). -/
def wr32 (offset : BitVec 17) (v : Word) : Event := .host (.write offset .b4 v)

/-- `wr16 OFF, V` (R99). -/
def wr16 (offset : BitVec 17) (v : Word) : Event := .host (.write offset .b2 v)

/-- `wr8 OFF, V` (R99). -/
def wr8 (offset : BitVec 17) (v : Word) : Event := .host (.write offset .b1 v)

/-- `rd32 OFF` (R99). -/
def rd32 (offset : BitVec 17) : Event := .host (.read offset .b4)

/-- `rd16 OFF` (R99). -/
def rd16 (offset : BitVec 17) : Event := .host (.read offset .b2)

/-- `rd8 OFF` (R99). -/
def rd8 (offset : BitVec 17) : Event := .host (.read offset .b1)

/-- `cmd OP` (R100). -/
def hostCmd (i : Instr) : List Event := [wr32 Reg.cmd.offset (encode i)]

/-- `wait` (R100) in the run where the engine has its turn after `k` polls: k reads of STATUS with BUSY = 1, the engine,
and the read that ends the loop. -/
def hostWait (k : Nat) : List Event :=
  List.replicate k (rd32 Reg.status.offset) ++ [.engine, rd32 Reg.status.offset]

/-- `run OP` (R100), with `k` polls before the engine's turn. -/
def hostRun (k : Nat) (i : Instr) : List Event := hostCmd i ++ hostWait k

/-- `seed "c0c1..."` (R100), from the characters' codes. -/
def hostSeed (k : Nat) (codes : List Byte) : List Event :=
  hostRun k .seedclr ++ codes.map (fun c => wr32 Reg.seedchr.offset (c.setWidth 32))

/-- The tap mask of a list of 1-based positions (R96). -/
def tapMask (ts : List Nat) : DWord := ts.foldl (fun m t => m ||| (1#64 <<< (t - 1))) 0

/-- `taps t1, ..., tk` (R100). -/
def hostTaps (ts : List Nat) : List Event :=
  [wr32 Reg.tapsLo.offset (loWord (tapMask ts)), wr32 Reg.tapsHi.offset (hiWord (tapMask ts))]

/-- `args a=V, la=V, b=V, lb=V, d=V` (R100): an unnamed argument (none) is not written. -/
def hostArgs (a la b lb d : Option Word) : List Event :=
  [(Reg.addrA, a), (Reg.lenA, la), (Reg.addrB, b), (Reg.lenB, lb), (Reg.addrD, d)].filterMap
    (fun p => p.2.map (wr32 p.1.offset))

end Sys2Proof.Machine
end

