-- ==== Sys2Proof/Safety.lean ====
section
/-! DEFINITION. The terms claims are stated in: the invariant, when each command runs without an error, the keystream, frames, and a safe state (R19). -/

namespace Sys2Proof.Safety

open Sys2Proof.Machine

/-- The answer of exec and step. -/
abbrev Answer := Host.Outcome State Fault Refusal

/-! ## The invariant -/

/-- The invariant every step keeps: MEM in its canonical form and inside 0..MEM_BYTES-1 (R68); MEM_BYTES in 1..65536 (R9);
while a command is pending DONE = 0 and ERR = 0 (R121, R247); while reset is asserted nothing is pending and no MEM byte is
written (R240, R241). -/
abbrev Invariant (s : State) : Prop :=
  Memory.wf s.mem = true ∧ (∀ c ∈ s.mem, c.1 < s.memBytes) ∧
  (1 ≤ s.memBytes ∧ s.memBytes ≤ Config.memBytesMax) ∧
  (s.pend ≠ none → s.done = false ∧ s.err = .none) ∧
  (s.inReset = true → s.pend = none ∧ s.mem = [])

/-- A safe state (R19): no write was lost, the last command ended with ERR = 0, and the last response was OKAY. -/
abbrev Safe (s : State) : Prop :=
  s.ovr = false ∧ s.err = .none ∧ ∀ r, s.resp = some r → r.status = .okay

/-! ## The conditions of the checks, in the spec's own terms -/

/-- A valid region (R127). -/
abbrev Inside (s : State) (a n : Nat) : Prop := n = 0 ∨ a + n ≤ s.memBytes

/-- Two regions overlap (R128). -/
abbrev Overlap (p m q n : Nat) : Prop := 0 < m ∧ 0 < n ∧ p < q + n ∧ q < p + m

/-- `aligned_or_disjoint` (R128). -/
abbrev AlignedOrDisjoint (p m q n : Nat) : Prop := ¬ Overlap p m q n ∨ p = q

/-- CTRL.LEN in 1..64 (R126). -/
abbrev LenLegal (s : State) : Prop := 1 ≤ s.len.toNat ∧ s.len.toNat ≤ 64

/-- A usable seed (R140): no bad character and CNT = R. -/
abbrev SeedUsable (s : State) : Prop := s.bad = false ∧ s.cnt = s.len

/-- No tap above R (R144). -/
abbrev TapsLegal (s : State) : Prop := ∀ j < 64, s.len.toNat ≤ j → s.taps.getLsbD j = false

/-- A key length the policy CTRL.KEYCHK accepts (R30). -/
abbrev KeyAccepted (s : State) : Prop :=
  (s.keychk = .rejectShort → s.la ≤ s.lb) ∧ (s.keychk = .rejectUnequal → s.lb = s.la)

/-- Every byte of a region is 0x00 or 0x01 (R192). -/
abbrev UnitsOnly (s : State) (a n : Nat) : Prop := ∀ i < n, s.readByte (a + i) = 0 ∨ s.readByte (a + i) = 1

/-- LOAD passes its checks (R150). -/
abbrev LoadOk (s : State) : Prop := LenLegal s ∧ SeedUsable s

/-- STEP passes its checks (R151). -/
abbrev StepOk (s : State) : Prop := LenLegal s ∧ TapsLegal s

/-- The checks GEN and CRYPT share (R125, orders 2 to 5). -/
abbrev GeneratorOk (s : State) : Prop := LenLegal s ∧ SeedUsable s ∧ TapsLegal s

/-- GEN passes its checks (R153). -/
abbrev GenOk (s : State) : Prop := GeneratorOk s ∧ Inside s s.d s.la

/-- XOR's regions are valid (R172). -/
abbrev XorInside (s : State) : Prop := Inside s s.a s.la ∧ Inside s s.b s.lb ∧ Inside s s.d s.la

/-- XOR's regions overlap only as allowed (R172). -/
abbrev XorApart (s : State) : Prop :=
  AlignedOrDisjoint s.d s.la s.a s.la ∧ AlignedOrDisjoint s.d s.la s.b (min s.la s.lb)

/-- XOR passes its checks (R172). -/
abbrev XorOk (s : State) : Prop := XorInside s ∧ XorApart s ∧ KeyAccepted s

/-- CRYPT's regions are valid (R175). -/
abbrev CryptInside (s : State) : Prop := Inside s s.a s.la ∧ Inside s s.d s.la

/-- CRYPT passes its checks (R175). -/
abbrev CryptOk (s : State) : Prop :=
  GeneratorOk s ∧ CryptInside s ∧ AlignedOrDisjoint s.d s.la s.a s.la

/-- UNPACK's regions are valid (R191). -/
abbrev UnpackInside (s : State) : Prop := Inside s s.a s.la ∧ Inside s s.d (8 * s.la)

/-- UNPACK passes its checks (R191). -/
abbrev UnpackOk (s : State) : Prop := UnpackInside s ∧ ¬ Overlap s.d (8 * s.la) s.a s.la

/-- PACK's regions are valid (R192); `(la + 7) / 8` is ceil(la / 8). -/
abbrev PackInside (s : State) : Prop := Inside s s.a s.la ∧ Inside s s.d ((s.la + 7) / 8)

/-- PACK passes its checks (R192). -/
abbrev PackOk (s : State) : Prop :=
  PackInside s ∧ ¬ Overlap s.d ((s.la + 7) / 8) s.a s.la ∧ UnitsOnly s s.a s.la

/-- The errors of a command in the order it reports them (R125): in a list of conditions and codes, the first condition
that does not hold decides the code. -/
def FailsInOrder (i : Instr) (s : State) : List (Prop × ErrCode) → Prop
  | [] => True
  | (p, code) :: rest => (¬ p → exec i s = .next (s.complete code)) ∧ (p → FailsInOrder i s rest)

/-! ## Registers and transactions -/

/-- The reset value of each register (R24); MEMSIZE's is the parameter MEM_BYTES, given as an argument. -/
def resetValue (memBytes : Nat) : Reg → Word
  | .ctrl => 0x00000221
  | .status => 0x00000000
  | .cmd => 0x00000000
  | .seedctl => 0x00000000
  | .seedchr => 0x00000000
  | .seedLo => 0x00000000
  | .seedHi => 0x00000000
  | .tapsLo => 0x00001000
  | .tapsHi => 0x00000001
  | .stateLo => 0x00000000
  | .stateHi => 0x00000000
  | .addrA => 0x00000000
  | .lenA => 0x00000000
  | .addrB => 0x00000000
  | .lenB => 0x00000000
  | .addrD => 0x00000000
  | .memsize => BitVec.ofNat 32 memBytes

/-- A register access R61 allows. -/
abbrev RegisterAccess (o : BitVec 17) (z : Size) : Prop := o.toNat < 0x44 ∧ z = .b4 ∧ o.toNat % 4 = 0

/-- A window access R62 allows. -/
abbrev WindowAccess (s : State) (o : BitVec 17) (z : Size) : Prop :=
  0x10000 ≤ o.toNat ∧ (o.toNat - 0x10000) % z.bytes = 0 ∧ o.toNat - 0x10000 + z.bytes ≤ s.memBytes

/-- The state after a transaction, and its response. -/
abbrev afterBus (s : State) (t : Transaction) : State := (s.transact t).1

/-- A 4-byte write to a register. -/
abbrev regWrite (r : Reg) (v : Word) : Transaction := .write r.offset .b4 v

/-- A word whose OP is in 0x09..0xFF, or whose MBZ is not 0 (R92). -/
abbrev IllegalWord (w : Word) : Prop := 0x09 ≤ w.toNat % 256 ∨ w.toNat / 256 ≠ 0

/-! ## The keystream -/

/-- The exclusive-or of the register bits at the taps up to R: true when an odd number of them is 1 (R145 b). -/
def tapXor (register : Nat → Bool) (taps : DWord) (len : Nat) : Bool :=
  decide (((List.range len).filter (fun j => taps.getLsbD j && register j)).length % 2 = 1)

/-- The register after i steps from the seed (R147, R152). -/
def keystreamState (seed taps : DWord) (len i : Nat) : DWord :=
  (fun v => (lfsrStep v taps len).2)^[i] (seed &&& ones len)

/-- o_i: the bit step i emits (R147). -/
def keystreamBit (seed taps : DWord) (len i : Nat) : Bool :=
  (keystreamState seed taps len i).getLsbD 0

/-- o_i of a state's own registers. -/
abbrev unitAt (s : State) (i : Nat) : Bool := keystreamBit s.seed s.taps s.len.toNat i

/-! ## Frames -/

/-- Completion with a code (R124). -/
abbrev Completed (t : State) (code : ErrCode) : Prop := t.err = code ∧ t.done = true ∧ t.pend = none

/-- What no command changes: CTRL, OVR, TAPS, the operand registers, MEM_BYTES, the reset input, and the model's own
fields. -/
abbrev HostRegistersKept (s t : State) : Prop :=
  t.len = s.len ∧ t.keychk = s.keychk ∧ t.ovr = s.ovr ∧ t.taps = s.taps ∧
  t.addrA = s.addrA ∧ t.lenA = s.lenA ∧ t.addrB = s.addrB ∧ t.lenB = s.lenB ∧ t.addrD = s.addrD ∧
  t.memBytes = s.memBytes ∧ t.inReset = s.inReset ∧ t.draw = s.draw ∧ t.agenda = s.agenda ∧ t.resp = s.resp

/-- SEED and SEEDCTL unchanged. -/
abbrev SeedKept (s t : State) : Prop := t.seed = s.seed ∧ t.cnt = s.cnt ∧ t.bad = s.bad

/-- Every MEM byte outside the n bytes from d on reads as before. -/
abbrev MemKeptOutside (s t : State) (d n : Nat) : Prop :=
  ∀ x, (x < d ∨ d + n ≤ x) → t.readByte x = s.readByte x

/-- Every MEM byte reads as before. -/
abbrev MemKept (s t : State) : Prop := ∀ x, t.readByte x = s.readByte x

end Sys2Proof.Safety
end

