-- ==== Sys2Proof/Certificates/Slice0/Obligations.lean ====
section
/-! DEFINITION. The statements for the provers: what each numbered rule of the spec says a command, a transaction or the block does. -/

open Sys2Proof Sys2Proof.Machine Sys2Proof.Safety

/-! ## Encoding -/

/-- R90 to R92: every well-formed command is read back from its word, and from its bytes with the rest of the bytes. -/
def Obligations.DecodeInvertsEncode : Prop :=
  ∀ i : Instr, i.wf = true →
    decodeWord (encode i) = i ∧
    ∀ rest : List Byte, decodeBytes (encodeBytes i ++ rest) = .ok (i, rest)

/-- R90 to R92: every 32-bit word is the encoding of the one well-formed command it decodes to. -/
def Obligations.EncodeInvertsDecode : Prop :=
  ∀ w : Word, (decodeWord w).wf = true ∧ encode (decodeWord w) = w

/-- R91: each command decodes when the whole 32-bit word equals its match value, and only then; every other word is
reserved. -/
def Obligations.EachCommandHasOneWord : Prop :=
  ∀ w : Word,
    (decodeWord w = .nop ↔ w = 0x00000000) ∧ (decodeWord w = .gen ↔ w = 0x00000001) ∧
    (decodeWord w = .xor ↔ w = 0x00000002) ∧ (decodeWord w = .unpack ↔ w = 0x00000003) ∧
    (decodeWord w = .pack ↔ w = 0x00000004) ∧ (decodeWord w = .load ↔ w = 0x00000005) ∧
    (decodeWord w = .step ↔ w = 0x00000006) ∧ (decodeWord w = .seedclr ↔ w = 0x00000007) ∧
    (decodeWord w = .crypt ↔ w = 0x00000008) ∧
    (decodeWord w = .reserved w ↔ IllegalWord w)

/-- R91, R92: a few words of the table. -/
def Obligations.TableWordsDecode : Prop :=
  decodeTableWord 32 0x00000000 = some .nop ∧ decodeTableWord 32 0x00000001 = some .gen ∧
  decodeTableWord 32 0x00000002 = some .xor ∧ decodeTableWord 32 0x00000003 = some .unpack ∧
  decodeTableWord 32 0x00000004 = some .pack ∧ decodeTableWord 32 0x00000006 = some .step ∧
  decodeTableWord 32 0x00000008 = some .crypt ∧
  decodeTableWord 32 0x00000009 = some (.reserved 0x00000009) ∧
  decodeTableWord 32 0x00000101 = some (.reserved 0x00000101)

/-- R92: an illegal word is accepted like any command, sets BUSY and latches PEND; the engine completes it with BAD_CMD =
0x09 and no other effect, whatever the word; no legal word ends in BAD_CMD. -/
def Obligations.IllegalWordsEndInBadCmd : Prop :=
  (∀ w : Word, IllegalWord w → decodeWord w = .reserved w ∧
    ∀ s : State,
      (s.pend = none →
        afterBus s (regWrite .cmd w) = { s with pend := some w, done := false, err := .none } ∧
        (afterBus s (regWrite .cmd w)).busy = true) ∧
      exec (.reserved w) s = .next { s with err := .badCmd, done := true, pend := none }) ∧
  ErrCode.badCmd.toWord = 0x09 ∧
  ∀ (w : Word) (s t : State), ¬ IllegalWord w → exec (decodeWord w) s = .next t → t.err ≠ .badCmd

/-! ## The step -/

/-- R122: on the engine's turn a pending word is decoded, always to a well-formed command, and the step is that command
run on the state less the event used up; with nothing pending the block only waits. The engine has its turn when the
event list is empty too (the model's choice, log 5). -/
def Obligations.EngineTurnRunsPendingCommand : Prop :=
  ∀ s : State, (s.agenda = [] ∨ s.agenda.head? = some .engine) →
    (∀ w, s.pend = some w →
      (decodeWord w).wf = true ∧ step s = exec (decodeWord w) { s with agenda := s.agenda.tail }) ∧
    (s.pend = none → step s = .next { s with agenda := s.agenda.tail })

/-- R60, R66: on the host's turn one transaction is performed whole, and its response stands on the bus. The event list
and the response field are the model's own (log 4, log 6). -/
def Obligations.HostTurnPerformsOneTransaction : Prop :=
  ∀ (s : State) (tr : Transaction), s.agenda.head? = some (.host tr) → s.inReset = false →
    ∃ t r, ({ s with agenda := s.agenda.tail } : State).transact tr = (t, r) ∧ step s = .next { t with resp := some r }

/-- X4, R240: a transaction issued while reset is asserted is the model's one fault. -/
def Obligations.TransactionDuringResetFaults : Prop :=
  ∀ (s : State) (tr : Transaction), s.agenda.head? = some (.host tr) → s.inReset = true →
    step s = .fault .transactionInReset

/-- R47, R240, R241, R242: asserting reset in any state, busy or not, sets every register to its reset value and PEND to
none, keeps MEM_BYTES, leaves no MEM byte written, each holding a draw other than the one before (log 1), and raises the reset
level (log 8); the events to come stay. -/
def Obligations.AssertedResetSetsResetValues : Prop :=
  ∀ s : State, s.agenda.head? = some .assertReset →
    ∃ t, step s = .next t ∧ (∀ r, t.readReg r = resetValue s.memBytes r) ∧
      t.pend = none ∧ t.busy = false ∧ t.memBytes = s.memBytes ∧ t.inReset = true ∧ t.agenda = s.agenda.tail ∧
      t.draw ≠ s.draw ∧ ∀ x, t.readByte x = Config.memDraw t.draw x

/-- R47: reset, in whatever state, leaves every register at its reset value, nothing pending and MEMSIZE as it was; the
machine's first state is such a state, and no MEM byte of it is written. -/
def Obligations.ResetRegisterValues : Prop :=
  (∀ s : State,
    (∀ r, s.assertReset.releaseReset.readReg r = resetValue s.memBytes r) ∧ s.assertReset.releaseReset.pend = none ∧
    ∀ x, s.assertReset.releaseReset.readByte x = Config.memDraw s.assertReset.releaseReset.draw x) ∧
  (∀ r, State.reset.readReg r = resetValue State.reset.memBytes r) ∧ State.reset.pend = none ∧
  State.reset.len = 33 ∧ State.reset.keychk.toWord = 2 ∧
  ∀ x, State.reset.readByte x = Config.memDraw State.reset.draw x

/-- R240: after reset is released the block accepts transactions at once. -/
def Obligations.ReleasedResetAcceptsTransactions : Prop :=
  ∀ s : State, s.agenda.head? = some .releaseReset →
    step s = .next { s with agenda := s.agenda.tail, inReset := false } ∧
    ∀ tr : Transaction, ∃ u, hostStep tr { s with agenda := s.agenda.tail, inReset := false } = .next u

/-- R245: after any reset CNT = 0 and R = 33, and LOAD, GEN and CRYPT fail with SEED_LEN; STEP steps the reset STATE = 0
and emits 0; the other commands need no seed. -/
def Obligations.AfterResetGeneratorNeedsSeed : Prop :=
  ∀ s t : State, t = s.assertReset.releaseReset →
    t.cnt = 0 ∧ t.len = 33 ∧
    exec .load t = .next (t.complete .seedLen) ∧ exec .gen t = .next (t.complete .seedLen) ∧
    exec .crypt t = .next (t.complete .seedLen) ∧
    exec .step t = .next { t with state := 0, obit := false, err := .none, done := true, pend := none } ∧
    exec .xor t = .next (t.complete .none) ∧ exec .unpack t = .next (t.complete .none) ∧
    exec .pack t = .next (t.complete .none) ∧ exec .nop t = .next (t.complete .none) ∧
    exec .seedclr t = .next (t.complete .none)

/-- The invariant at reset. -/
def Obligations.InvariantHoldsAtReset : Prop := Invariant State.reset

/-- Every step of either agent, and every change of the reset input, keeps the invariant and the constant MEM_BYTES
(R9, R47, R68, R121, R242, R247). -/
def Obligations.EveryStepKeepsInvariant : Prop :=
  ∀ s t : State, Invariant s → step s = .next t → Invariant t ∧ t.memBytes = s.memBytes

/-- R74, R122, R246, R251: whatever transactions the host issues while a command is pending, the command completes after
them with the effect it has on the state at its acceptance; only OVR and the response on the bus can differ. That the
engine has its turn when the event list ends is the model's weak fairness (log 5). -/
def Obligations.BusyWindowNeverChangesCommand : Prop :=
  ∀ (s : State) (w : Word) (trs : List Transaction),
    s.pend = some w → s.inReset = false → s.agenda = trs.map Event.host →
    ∃ t u, Host.Core.run Sys2Proof.core (trs.length + 1) s = .next t ∧ exec (decodeWord w) s = .next u ∧
      t = { u with ovr := t.ovr, resp := t.resp, agenda := [] } ∧ t.pend = none ∧ t.done = true

/-! ## The bus -/

/-- R61, R63, R67: an access gets OKAY exactly when it is a register access or a window access of those rules; a BUSERR
reads 0 and changes nothing, not even OVR; a read changes nothing. For every state: that a malformed window read while
BUSY = 1 gets BUSERR is the model's reading (log 9, DEDUCED), and so is that a write ignored while BUSY = 1 answers OKAY
(log 10, DEDUCED). -/
def Obligations.BusErrorExactly : Prop :=
  ∀ (s : State) (o : BitVec 17) (z : Size),
    (RegisterAccess o z ∨ WindowAccess s o z →
      (∃ v, s.transact (.read o z) = (s, ⟨.okay, some v⟩)) ∧
      ∀ v, ∃ t, s.transact (.write o z v) = (t, ⟨.okay, none⟩)) ∧
    (¬ (RegisterAccess o z ∨ WindowAccess s o z) →
      s.transact (.read o z) = (s, ⟨.buserr, some 0⟩) ∧
      ∀ v, s.transact (.write o z v) = (s, ⟨.buserr, none⟩))

/-- R24: the register at each offset of the map. R12, R43, R64: while BUSY = 0 STATE_LO reads STATE[31:0] and STATE_HI
STATE[63:32]. R45: in every state MEMSIZE reads MEM_BYTES (the state's constant field, log 3). -/
def Obligations.RegisterMapOffsets : Prop :=
  (∀ s : State, ∀ p ∈ ([(0x000, .ctrl), (0x004, .status), (0x008, .cmd), (0x00C, .seedctl), (0x010, .seedchr),
      (0x014, .seedLo), (0x018, .seedHi), (0x01C, .tapsLo), (0x020, .tapsHi), (0x024, .stateLo), (0x028, .stateHi),
      (0x02C, .addrA), (0x030, .lenA), (0x034, .addrB), (0x038, .lenB), (0x03C, .addrD), (0x040, .memsize)] :
        List (BitVec 17 × Reg)),
    s.transact (.read p.1 .b4) = (s, ⟨.okay, some (s.readReg p.2)⟩)) ∧
  (∀ s : State, s.readReg .memsize = BitVec.ofNat 32 s.memBytes) ∧
  ∀ s : State, s.pend = none → ∀ j < 32,
    (s.readReg .stateLo).getLsbD j = s.state.getLsbD j ∧ (s.readReg .stateHi).getLsbD j = s.state.getLsbD (32 + j)

/-- R62, R64: a window read while BUSY = 0 returns the bytes from k on, least significant first, zero-extended. -/
def Obligations.WindowReadIsLittleEndian : Prop :=
  ∀ (s : State) (k : Nat) (z : Size), s.pend = none → s.memBytes ≤ 65536 →
    k % z.bytes = 0 → k + z.bytes ≤ s.memBytes →
    ∃ v, s.transact (.read (memOffset k) z) = (s, ⟨.okay, some v⟩) ∧
      (∀ i < z.bytes, v.extractLsb' (8 * i) 8 = s.readByte (k + i)) ∧ v.toNat < 2 ^ (8 * z.bytes)

/-- R62, R64: a window write while BUSY = 0 writes those bytes, least significant first, and nothing else. -/
def Obligations.WindowWriteIsLittleEndian : Prop :=
  ∀ (s : State) (k : Nat) (z : Size) (v : Word), s.pend = none → s.memBytes ≤ 65536 →
    k % z.bytes = 0 → k + z.bytes ≤ s.memBytes →
    ∃ t, s.transact (.write (memOffset k) z v) = (t, ⟨.okay, none⟩) ∧
      (∀ i < z.bytes, t.readByte (k + i) = v.extractLsb' (8 * i) 8) ∧
      MemKeptOutside s t k z.bytes ∧ t = { s with mem := t.mem }

/-- R65: a 4-byte write followed by a 1-byte read at k + j returns byte j of the word (bits 23:16 at k + 2), and a 2-byte
read its two bytes; a byte outside reads as before at every width, and
nothing but MEM changes. -/
def Obligations.MixedWidthsSeeOneByteArray : Prop :=
  ∀ (s : State) (k : Nat) (v : Word), s.pend = none → s.memBytes ≤ 65536 → k % 4 = 0 → k + 4 ≤ s.memBytes →
    (∀ j < 4, ((afterBus s (.write (memOffset k) .b4 v)).transact (.read (memOffset (k + j)) .b1)).2.data =
      some ((v.extractLsb' (8 * j) 8).setWidth 32)) ∧
    (∀ j < 2, ((afterBus s (.write (memOffset k) .b4 v)).transact (.read (memOffset (k + 2 * j)) .b2)).2.data =
      some ((v.extractLsb' (16 * j) 16).setWidth 32)) ∧
    afterBus s (.write (memOffset k) .b4 v) = { s with mem := (afterBus s (.write (memOffset k) .b4 v)).mem } ∧
    ∀ (x : Nat) (z : Size), (x + z.bytes ≤ k ∨ k + 4 ≤ x) → x + z.bytes ≤ s.memBytes →
      ((afterBus s (.write (memOffset k) .b4 v)).transact (.read (memOffset x) z)).2 =
        (s.transact (.read (memOffset x) z)).2

/-- R246: while BUSY = 1 a write other than to STATUS is ignored and sets OVR, a STATUS write takes effect, and a write
that gets BUSERR sets no OVR. -/
def Obligations.BusyWritesAreIgnored : Prop :=
  ∀ (s : State) (o : BitVec 17) (z : Size) (v : Word), s.pend ≠ none →
    ((RegisterAccess o z ∨ WindowAccess s o z) → o ≠ 0x004 →
      afterBus s (.write o z v) = { s with ovr := true }) ∧
    (o = 0x004 → z = .b4 →
      afterBus s (.write o z v) = { s with done := s.done && !v.getLsbD 1, ovr := s.ovr && !v.getLsbD 2 }) ∧
    (¬ (RegisterAccess o z ∨ WindowAccess s o z) → afterBus s (.write o z v) = s)

/-- R247: while BUSY = 1 STATE, OBIT and the MEM window read 0, every other register its current value, and STATUS has
BUSY = 1, DONE = 0, ERR = 0 and OVR as it is. -/
def Obligations.BusyReadsAreFiltered : Prop :=
  ∀ s : State, Invariant s → s.pend ≠ none →
    s.readReg .stateLo = 0 ∧ s.readReg .stateHi = 0 ∧
    (∀ (o : BitVec 17) (z : Size), 0x10000 ≤ o.toNat → (s.transact (.read o z)).2.data = some 0) ∧
    s.readReg .status = (if s.ovr then 0x00000005 else 0x00000001) ∧
    ∀ r, r ≠ .status → r ≠ .stateLo → r ≠ .stateHi → s.readReg r = ({ s with pend := none } : State).readReg r

/-- R121: an accepted CMD write latches the word, sets BUSY, clears DONE and ERR, and changes nothing else; whatever the
word, no check is made. While BUSY = 1 a CMD write is not accepted. -/
def Obligations.CmdWriteIsAccepted : Prop :=
  ∀ (s : State) (w : Word),
    (s.pend = none →
      s.transact (.write 0x008 .b4 w) =
        ({ s with pend := some w, done := false, err := .none }, ⟨.okay, none⟩) ∧
      ({ s with pend := some w, done := false, err := .none } : State).busy = true) ∧
    (s.pend ≠ none → (afterBus s (.write 0x008 .b4 w)).pend = s.pend)

/-- R25, R28 to R30, R39: in every state CTRL reads LEN in bits 6:0 and KEYCHK in bits 9:8, SEEDCTL reads CNT in bits 6:0
and BAD in bit 8, and both read 0 elsewhere; the three policies of KEYCHK have the numbers 0, 1 and 2. What they read after a write while BUSY = 0: the written bits of their fields,
the old KEYCHK where 3 was written; nothing else changes, and KEYCHK never reads 3. -/
def Obligations.ControlRegistersReadBack : Prop :=
  (KeyPolicy.clamp.toWord = 0 ∧ KeyPolicy.rejectShort.toWord = 1 ∧ KeyPolicy.rejectUnequal.toWord = 2) ∧
  (∀ s : State, ∀ j < 32,
    (s.readReg .ctrl).getLsbD j =
      (if j < 7 then s.len.getLsbD j else if j = 8 ∨ j = 9 then s.keychk.toWord.getLsbD (j - 8) else false) ∧
    (s.readReg .seedctl).getLsbD j =
      (if j < 7 then s.cnt.getLsbD j else if j = 8 then s.bad else false)) ∧
  ∀ (s : State) (v : Word), s.pend = none →
    (∀ t, t = afterBus s (regWrite .ctrl v) →
      (∀ j < 32, (t.readReg .ctrl).getLsbD j =
        if j < 7 then v.getLsbD j
        else if j = 8 ∨ j = 9 then
          (if v.getLsbD 8 && v.getLsbD 9 then (s.readReg .ctrl).getLsbD j else v.getLsbD j)
        else false) ∧
      ¬ ((t.readReg .ctrl).getLsbD 8 = true ∧ (t.readReg .ctrl).getLsbD 9 = true) ∧
      t = { s with len := t.len, keychk := t.keychk }) ∧
    (∀ t, t = afterBus s (regWrite .seedctl v) →
      (∀ j < 32, (t.readReg .seedctl).getLsbD j = if j < 7 ∨ j = 8 then v.getLsbD j else false) ∧
      t = { s with cnt := t.cnt, bad := t.bad })

/-- R12, R41, R42, R44: in every state SEED_LO and SEED_HI read SEED[31:0] and SEED[63:32], TAPS_LO and TAPS_HI read
TAPS[31:0] and TAPS[63:32], and each operand register reads the operand commands use. A plain read-write register, written
while BUSY = 0, reads back all 32 bits, and every other register reads as before. -/
def Obligations.PlainRegistersReadBack : Prop :=
  (∀ s : State,
    (∀ j < 32,
      (s.readReg .seedLo).getLsbD j = s.seed.getLsbD j ∧ (s.readReg .seedHi).getLsbD j = s.seed.getLsbD (32 + j) ∧
      (s.readReg .tapsLo).getLsbD j = s.taps.getLsbD j ∧ (s.readReg .tapsHi).getLsbD j = s.taps.getLsbD (32 + j)) ∧
    s.readReg .addrA = s.addrA ∧ s.readReg .lenA = s.lenA ∧ s.readReg .addrB = s.addrB ∧
    s.readReg .lenB = s.lenB ∧ s.readReg .addrD = s.addrD) ∧
  ∀ (s : State) (v : Word), s.pend = none →
    ∀ r ∈ [Reg.seedLo, Reg.seedHi, Reg.tapsLo, Reg.tapsHi, Reg.addrA, Reg.lenA, Reg.addrB, Reg.lenB, Reg.addrD],
      (afterBus s (regWrite r v)).readReg r = v ∧
      (∀ q, q ≠ r → (afterBus s (regWrite r v)).readReg q = s.readReg q) ∧
      MemKept s (afterBus s (regWrite r v)) ∧ (afterBus s (regWrite r v)).pend = none

/-- R26, R27: a write to a read-only register, or to read-only bits of STATUS, changes nothing and gets no bus error,
but for OVR while BUSY = 1; a read of CMD or SEEDCHR gives 0 and changes nothing. -/
def Obligations.ReadOnlyAndWriteOnlyRegisters : Prop :=
  ∀ (s : State) (v : Word),
    (∀ r ∈ [Reg.stateLo, Reg.stateHi, Reg.memsize],
      (s.pend = none → s.transact (regWrite r v) = (s, ⟨.okay, none⟩)) ∧
      (s.pend ≠ none → s.transact (regWrite r v) = ({ s with ovr := true }, ⟨.okay, none⟩))) ∧
    (v.getLsbD 1 = false → v.getLsbD 2 = false → s.transact (regWrite .status v) = (s, ⟨.okay, none⟩)) ∧
    (∀ r ∈ [Reg.cmd, Reg.seedchr], s.transact (.read r.offset .b4) = (s, ⟨.okay, some 0⟩))

/-- R141, R142: a SEEDCHR write while BUSY = 0. Only bits 7:0 count; 0x30 and 0x31 append their bit at SEED[CNT] while
CNT < 64 and count up to 127; any other character sets BAD. Nothing else changes. While BUSY = 1 it is ignored. -/
def Obligations.SeedCharacterEntry : Prop :=
  ∀ (s : State) (w : Word),
    (s.pend = none → ∀ t, t = afterBus s (regWrite .seedchr w) →
      ((w.toNat % 256 = 0x30 ∨ w.toNat % 256 = 0x31) →
        (∀ j < 64, t.seed.getLsbD j = if j = s.cnt.toNat then w.getLsbD 0 else s.seed.getLsbD j) ∧
        t.cnt.toNat = min (s.cnt.toNat + 1) 127 ∧ t = { s with seed := t.seed, cnt := t.cnt }) ∧
      (¬ (w.toNat % 256 = 0x30 ∨ w.toNat % 256 = 0x31) → t = { s with bad := true })) ∧
    (s.pend ≠ none → afterBus s (regWrite .seedchr w) = { s with ovr := true })

/-- R31: every bit of STATUS, and a write to it: DONE is cleared where bit 1 is 1, OVR where bit 2 is 1, every other bit is
ignored, also while BUSY = 1. -/
def Obligations.StatusBitsAndWrites : Prop :=
  (∀ s : State, ∀ j < 32, (s.readReg .status).getLsbD j =
    if j = 0 then s.busy else if j = 1 then s.done else if j = 2 then s.ovr
    else if j = 3 then (s.obit && !s.busy)
    else if 8 ≤ j ∧ j < 16 then s.err.toWord.getLsbD (j - 8) else false) ∧
  (∀ (s : State) (v : Word),
    s.transact (.write 0x004 .b4 v) =
      ({ s with
          done := if v.getLsbD 1 then false else s.done
          ovr := if v.getLsbD 2 then false else s.ovr }, ⟨.okay, none⟩)) ∧
  State.reset.readReg .status = 0x00000000

/-! ## All commands -/

/-- R122, R124: every command, in every state, answers a next state, in which it is completed. -/
def Obligations.EveryCommandCompletes : Prop :=
  ∀ (i : Instr) (s : State), ∃ t, exec i s = .next t ∧ Completed t t.err ∧ t.busy = false

/-- R123: a command that fails leaves every register and MEM byte unchanged, except the completion fields. -/
def Obligations.FailedCommandsArePrecise : Prop :=
  ∀ (i : Instr) (s t : State), exec i s = .next t → t.err ≠ .none →
    t = { s with err := t.err, done := true, pend := none }

/-- R22, R44: no command writes the operand registers, CTRL, TAPS, OVR or MEMSIZE, whatever its outcome. -/
def Obligations.CommandsKeepHostRegisters : Prop :=
  ∀ (i : Instr) (s t : State), exec i s = .next t → HostRegistersKept s t

/-- R210: the number of each error code, and for each the commands that raise it and the cause. -/
def Obligations.ErrorCodesAndTheirCauses : Prop :=
  [ErrCode.none, .seedLen, .seedChar, .lenRange, .tapRange, .keyLen, .range, .overlap, .badUnit, .badCmd].map
      ErrCode.toWord = [0x00, 0x01, 0x02, 0x03, 0x04, 0x05, 0x06, 0x07, 0x08, 0x09] ∧
  (∀ c : ErrCode, c.toWord.toNat ≤ 0x09) ∧
  ∀ (i : Instr) (s t : State), exec i s = .next t →
    (t.err = .seedLen → i ∈ [Instr.load, .gen, .crypt] ∧ s.cnt ≠ s.len) ∧
    (t.err = .seedChar → i ∈ [Instr.load, .gen, .crypt] ∧ s.bad = true) ∧
    (t.err = .lenRange → i ∈ [Instr.load, .step, .gen, .crypt] ∧ (s.len.toNat = 0 ∨ 64 < s.len.toNat)) ∧
    (t.err = .tapRange → i ∈ [Instr.step, .gen, .crypt] ∧ ∃ j, s.len.toNat ≤ j ∧ s.taps.getLsbD j = true) ∧
    (t.err = .keyLen → i = .xor ∧ ¬ KeyAccepted s) ∧
    (t.err = .range →
      (i = .gen ∧ ¬ Inside s s.d s.la) ∨ (i = .xor ∧ ¬ XorInside s) ∨ (i = .crypt ∧ ¬ CryptInside s) ∨
      (i = .unpack ∧ ¬ UnpackInside s) ∨ (i = .pack ∧ ¬ PackInside s)) ∧
    (t.err = .overlap →
      (i = .xor ∧ ¬ XorApart s) ∨ (i = .crypt ∧ ¬ AlignedOrDisjoint s.d s.la s.a s.la) ∨
      (i = .unpack ∧ Overlap s.d (8 * s.la) s.a s.la) ∨
      (i = .pack ∧ Overlap s.d ((s.la + 7) / 8) s.a s.la)) ∧
    (t.err = .badUnit → i = .pack ∧ ¬ UnitsOnly s s.a s.la) ∧
    (t.err = .badCmd → ∃ w, i = .reserved w)

/-- R23, R35, R37, R43: STATE is written by LOAD, STEP, GEN and CRYPT only, which clear its bits from R on; OBIT by STEP,
GEN and CRYPT only; SEED and SEEDCTL by SEEDCLR only; MEM by GEN, XOR, CRYPT, UNPACK and PACK only. -/
def Obligations.WhichCommandsWriteWhat : Prop :=
  ∀ (i : Instr) (s t : State), exec i s = .next t →
    (i ∉ [Instr.load, .step, .gen, .crypt] → t.state = s.state) ∧
    (i ∈ [Instr.load, .step, .gen, .crypt] → t.err = .none →
      ∀ j, s.len.toNat ≤ j → t.state.getLsbD j = false) ∧
    (i ∉ [Instr.step, .gen, .crypt] → t.obit = s.obit) ∧
    (i ≠ .seedclr → SeedKept s t) ∧
    (i ∉ [Instr.gen, .xor, .crypt, .unpack, .pack] → MemKept s t)

/-- R126: LOAD, STEP, GEN and CRYPT fail with LEN_RANGE when CTRL.LEN = 0 or CTRL.LEN > 64, and only then. -/
def Obligations.IllegalLengthFails : Prop :=
  ∀ (s : State) (i : Instr), i ∈ [Instr.load, .step, .gen, .crypt] →
    (exec i s = .next (s.complete .lenRange) ↔ s.len.toNat = 0 ∨ 64 < s.len.toNat)

/-- R143: after the LEN check LOAD, GEN and CRYPT fail with SEED_CHAR when BAD = 1, else with SEED_LEN when CNT differs
from R. -/
def Obligations.UnusableSeedFails : Prop :=
  ∀ (s : State) (i : Instr), i ∈ [Instr.load, .gen, .crypt] → LenLegal s →
    (exec i s = .next (s.complete .seedChar) ↔ s.bad = true) ∧
    (s.bad = false → (exec i s = .next (s.complete .seedLen) ↔ s.cnt ≠ s.len))

/-- R144: after the LEN and seed checks STEP, GEN and CRYPT fail with TAP_RANGE when a tap above R is set; an empty tap
set passes. -/
def Obligations.TapAboveLengthFails : Prop :=
  ∀ (s : State) (i : Instr), i ∈ [Instr.step, .gen, .crypt] → LenLegal s → (i ≠ .step → SeedUsable s) →
    (exec i s = .next (s.complete .tapRange) ↔ ∃ j, s.len.toNat ≤ j ∧ s.taps.getLsbD j = true) ∧
    (s.taps = 0 → ¬ exec i s = .next (s.complete .tapRange))

/-- R127: after the generator's checks (R125) a command fails with RANGE exactly when a region it names is not valid. -/
def Obligations.RegionOutsideMemFails : Prop :=
  ∀ s : State,
    (GeneratorOk s → (exec .gen s = .next (s.complete .range) ↔ ¬ Inside s s.d s.la)) ∧
    (GeneratorOk s → (exec .crypt s = .next (s.complete .range) ↔ ¬ CryptInside s)) ∧
    (exec .xor s = .next (s.complete .range) ↔ ¬ XorInside s) ∧
    (exec .unpack s = .next (s.complete .range) ↔ ¬ UnpackInside s) ∧
    (exec .pack s = .next (s.complete .range) ↔ ¬ PackInside s)

/-- R125, R128: with valid regions a command fails with OVERLAP exactly when a condition it requires does not hold. -/
def Obligations.IllegalOverlapFails : Prop :=
  ∀ s : State,
    (XorInside s → (exec .xor s = .next (s.complete .overlap) ↔ ¬ XorApart s)) ∧
    (GeneratorOk s → CryptInside s →
      (exec .crypt s = .next (s.complete .overlap) ↔ ¬ AlignedOrDisjoint s.d s.la s.a s.la)) ∧
    (UnpackInside s → (exec .unpack s = .next (s.complete .overlap) ↔ Overlap s.d (8 * s.la) s.a s.la)) ∧
    (PackInside s → (exec .pack s = .next (s.complete .overlap) ↔ Overlap s.d ((s.la + 7) / 8) s.a s.la))

/-! ## Each command -/

/-- R129: NOP completes with ERR = 0 and does nothing else; run after reset it leaves STATUS = 0x00000002. -/
def Obligations.NopOnlyCompletes : Prop :=
  decodeWord 0x00000000 = .nop ∧
  (∀ s : State, exec .nop s = .next { s with err := .none, done := true, pend := none }) ∧
  ∃ t, exec .nop (State.reset.accept 0) = .next t ∧ t.readReg .status = 0x00000002

/-- R130: SEEDCLR clears SEED, CNT and BAD and nothing else; a later LOAD, GEN or CRYPT then fails with SEED_LEN for every
legal R. -/
def Obligations.SeedclrClearsSeed : Prop :=
  decodeWord 0x00000007 = .seedclr ∧ ∀ s : State, ∃ t, exec .seedclr s = .next t ∧
    t = { s with seed := 0, cnt := 0, bad := false, err := .none, done := true, pend := none } ∧
    (LenLegal s →
      exec .load t = .next (t.complete .seedLen) ∧ exec .gen t = .next (t.complete .seedLen) ∧
      exec .crypt t = .next (t.complete .seedLen))

/-- R150: LOAD copies SEED bits below R to STATE and clears the rest; OBIT, SEED, MEM and every register of the host stay.
Its errors come in the order of its rule. -/
def Obligations.LoadCopiesSeed : Prop :=
  decodeWord 0x00000005 = .load ∧ ∀ s : State,
    FailsInOrder .load s
      [(LenLegal s, .lenRange), (s.bad = false, .seedChar), (s.cnt = s.len, .seedLen)] ∧
    (LoadOk s →
      ∃ t, exec .load s = .next t ∧ Completed t .none ∧
        (∀ j, t.state.getLsbD j = (decide (j < s.len.toNat) && s.seed.getLsbD j)) ∧
        t.obit = s.obit ∧ SeedKept s t ∧ HostRegistersKept s t ∧ MemKept s t)

/-- R145, R146: the step function bit by bit: register[0] is emitted, register[j] takes register[j+1], register[R-1] the
exclusive-or of the tapped bits as they stood before the shift, and bits from R on are 0. -/
def Obligations.LfsrStepBitByBit : Prop :=
  ∀ (v taps : DWord) (len : Nat), 1 ≤ len → len ≤ 64 →
    (lfsrStep v taps len).1 = v.getLsbD 0 ∧
    ∀ j, (lfsrStep v taps len).2.getLsbD j =
      if j + 1 < len then v.getLsbD (j + 1)
      else if j + 1 = len then tapXor (fun k => v.getLsbD k) taps len
      else false

/-- R151: STEP is one lfsr_step on STATE, its output bit in OBIT; the seed is not checked, and nothing else changes.
Its errors come in the order of its rule. -/
def Obligations.StepStepsState : Prop :=
  decodeWord 0x00000006 = .step ∧ ∀ s : State,
    FailsInOrder .step s
      [(LenLegal s, .lenRange), (TapsLegal s, .tapRange)] ∧
    (StepOk s →
      ∃ t, exec .step s = .next t ∧ Completed t .none ∧
        t.obit = (lfsrStep s.state s.taps s.len.toNat).1 ∧
        t.state = (lfsrStep s.state s.taps s.len.toNat).2 ∧
        SeedKept s t ∧ HostRegistersKept s t ∧ MemKept s t)

/-- R152, R153: GEN writes units o_0, ..., o_(n-1) of the keystream of SEED to MEM[d + i], leaves STATE after n steps from
SEED & ones(R) and OBIT the last bit emitted (unchanged when n = 0), and changes nothing else.
Its errors come in the order of its rule. -/
def Obligations.GenWritesKeystream : Prop :=
  decodeWord 0x00000001 = .gen ∧ ∀ s : State,
    FailsInOrder .gen s
      [(LenLegal s, .lenRange), (s.bad = false, .seedChar), (s.cnt = s.len, .seedLen),
       (TapsLegal s, .tapRange), (Inside s s.d s.la, .range)] ∧
    (GenOk s →
      ∃ t, exec .gen s = .next t ∧ Completed t .none ∧
        (∀ i < s.la, t.readByte (s.d + i) = if unitAt s i then 0x01 else 0x00) ∧
        t.state = keystreamState s.seed s.taps s.len.toNat s.la ∧
        t.obit = (if s.la = 0 then s.obit else unitAt s (s.la - 1)) ∧
        MemKeptOutside s t s.d s.la ∧ SeedKept s t ∧ HostRegistersKept s t)

/-- R170, R172: XOR writes data xor key below min(la, lb) and the data from there to la, and changes nothing else.
Its errors come in the order of its rule. -/
def Obligations.XorTransforms : Prop :=
  decodeWord 0x00000002 = .xor ∧ ∀ s : State,
    FailsInOrder .xor s
      [(XorInside s, .range), (XorApart s, .overlap), (KeyAccepted s, .keyLen)] ∧
    (XorOk s →
      ∃ t, exec .xor s = .next t ∧ Completed t .none ∧
        (∀ i < s.la, t.readByte (s.d + i) =
          if i < min s.la s.lb then s.readByte (s.a + i) ^^^ s.readByte (s.b + i) else s.readByte (s.a + i)) ∧
        MemKeptOutside s t s.d s.la ∧ t.state = s.state ∧ t.obit = s.obit ∧ SeedKept s t ∧ HostRegistersKept s t)

/-- R175: CRYPT writes each data byte xor its keystream unit, leaves STATE and OBIT as GEN does, and changes nothing
else.
Its errors come in the order of its rule. -/
def Obligations.CryptXorsKeystream : Prop :=
  decodeWord 0x00000008 = .crypt ∧ ∀ s : State,
    FailsInOrder .crypt s
      [(LenLegal s, .lenRange), (s.bad = false, .seedChar), (s.cnt = s.len, .seedLen),
       (TapsLegal s, .tapRange), (CryptInside s, .range), (AlignedOrDisjoint s.d s.la s.a s.la, .overlap)] ∧
    (CryptOk s →
      ∃ t, exec .crypt s = .next t ∧ Completed t .none ∧
        (∀ i < s.la, t.readByte (s.d + i) = s.readByte (s.a + i) ^^^ (if unitAt s i then 0x01 else 0x00)) ∧
        t.state = keystreamState s.seed s.taps s.len.toNat s.la ∧
        t.obit = (if s.la = 0 then s.obit else unitAt s (s.la - 1)) ∧
        MemKeptOutside s t s.d s.la ∧ SeedKept s t ∧ HostRegistersKept s t)

/-- R98, R191: UNPACK writes unit 8i + k from bit 7 - k of source byte i, and changes nothing else.
Its errors come in the order of its rule. -/
def Obligations.UnpackIsMsbFirst : Prop :=
  decodeWord 0x00000003 = .unpack ∧ ∀ s : State,
    FailsInOrder .unpack s
      [(UnpackInside s, .range), (¬ Overlap s.d (8 * s.la) s.a s.la, .overlap)] ∧
    (UnpackOk s →
      ∃ t, exec .unpack s = .next t ∧ Completed t .none ∧
        (∀ i < s.la, ∀ k < 8, t.readByte (s.d + 8 * i + k) =
          if (s.readByte (s.a + i)).getLsbD (7 - k) then 0x01 else 0x00) ∧
        MemKeptOutside s t s.d (8 * s.la) ∧ t.state = s.state ∧ t.obit = s.obit ∧ SeedKept s t ∧ HostRegistersKept s t)

/-- R98, R192: PACK sets bit 7 - k of destination byte j from unit 8j + k, and 0 where there is no such unit; it changes
nothing else.
Its errors come in the order of its rule. -/
def Obligations.PackIsMsbFirst : Prop :=
  decodeWord 0x00000004 = .pack ∧ ∀ s : State,
    FailsInOrder .pack s
      [(PackInside s, .range), (¬ Overlap s.d ((s.la + 7) / 8) s.a s.la, .overlap),
       (UnitsOnly s s.a s.la, .badUnit)] ∧
    (PackOk s →
      ∃ t, exec .pack s = .next t ∧ Completed t .none ∧
        (∀ j < (s.la + 7) / 8, ∀ k < 8, (t.readByte (s.d + j)).getLsbD (7 - k) =
          (decide (8 * j + k < s.la) && (s.readByte (s.a + (8 * j + k))).getLsbD 0)) ∧
        MemKeptOutside s t s.d ((s.la + 7) / 8) ∧ t.state = s.state ∧ t.obit = s.obit ∧ SeedKept s t ∧
        HostRegistersKept s t)

/-! ## Laws of the spec -/

/-- R147: the first R units are the seed bits, each later unit is the exclusive-or of the tapped earlier ones; the two tap
sets of the source written out. -/
def Obligations.KeystreamRecurrence : Prop :=
  (∀ (seed taps : DWord) (len : Nat), 1 ≤ len → len ≤ 64 →
    (∀ i < len, keystreamBit seed taps len i = seed.getLsbD i) ∧
    ∀ i, keystreamBit seed taps len (i + len) = tapXor (fun j => keystreamBit seed taps len (i + j)) taps len) ∧
  (∀ (seed : DWord) (i : Nat),
    keystreamBit seed 0x0000000100001000 33 (i + 33) =
      (keystreamBit seed 0x0000000100001000 33 (i + 32) ^^ keystreamBit seed 0x0000000100001000 33 (i + 12))) ∧
  ∀ (seed : DWord) (i : Nat),
    keystreamBit seed 0x0000000100001A00 33 (i + 33) =
      (keystreamBit seed 0x0000000100001A00 33 (i + 32) ^^ keystreamBit seed 0x0000000100001A00 33 (i + 12) ^^
        keystreamBit seed 0x0000000100001A00 33 (i + 11) ^^ keystreamBit seed 0x0000000100001A00 33 (i + 9))

/-- R148: the step is injective on R-bit states exactly when tap 1 is in the set; without it two states that differ only in
bit 0 step to the same state; neither tap set of the source has it. -/
def Obligations.StepInjectiveIffTapOne : Prop :=
  (∀ (taps : DWord) (len : Nat), 1 ≤ len → len ≤ 64 →
    ((∀ u v : DWord, (∀ j, len ≤ j → u.getLsbD j = false ∧ v.getLsbD j = false) →
      (lfsrStep u taps len).2 = (lfsrStep v taps len).2 → u = v) ↔ taps.getLsbD 0 = true)) ∧
  (∀ (taps : DWord) (len : Nat), 1 ≤ len → len ≤ 64 → taps.getLsbD 0 = false →
    ∀ u v : DWord, (∀ j, 1 ≤ j → u.getLsbD j = v.getLsbD j) → (lfsrStep u taps len).2 = (lfsrStep v taps len).2) ∧
  (0x0000000100001000 : DWord).getLsbD 0 = false ∧ (0x0000000100001A00 : DWord).getLsbD 0 = false

/-- R149: the units GEN writes and the final STATE depend only on SEED[R-1:0], TAPS, R and n. -/
def Obligations.GenIsDeterministic : Prop :=
  ∀ s s' t t' : State, GenOk s → GenOk s' → s'.len = s.len → s'.taps = s.taps → s'.lenA = s.lenA →
    (∀ j < s.len.toNat, s'.seed.getLsbD j = s.seed.getLsbD j) →
    exec .gen s = .next t → exec .gen s' = .next t' →
    t'.state = t.state ∧ ∀ i < s.la, t'.readByte (s'.d + i) = t.readByte (s.d + i)

/-- R173: XOR applied twice with the same key, first to D1 and then from D1 to D2, gives the data back, for a longer, an
equal and a shorter key. -/
def Obligations.XorTwiceRestoresData : Prop :=
  ∀ (s t r u : State) (d2 : Word),
    exec .xor s = .next t → t.err = .none →
    (∀ i < min s.la s.lb, t.readByte (s.b + i) = s.readByte (s.b + i)) →
    r = { t with addrA := s.addrD, addrD := d2 } → exec .xor r = .next u → u.err = .none →
    ∀ i < s.la, u.readByte (d2.toNat + i) = s.readByte (s.a + i)

/-- R97, R174: with a key of units XOR changes only bit 0 of each data byte, by the unit's bit. -/
def Obligations.UnitKeyChangesBitZeroOnly : Prop :=
  ∀ s : State, XorOk s → UnitsOnly s s.b (min s.la s.lb) →
    ∃ t, exec .xor s = .next t ∧
      ∀ i < s.la, (∀ j, 1 ≤ j → (t.readByte (s.d + i)).getLsbD j = (s.readByte (s.a + i)).getLsbD j) ∧
        (t.readByte (s.d + i)).getLsbD 0 =
          ((s.readByte (s.a + i)).getLsbD 0 ^^ (decide (i < min s.la s.lb) && (s.readByte (s.b + i)).getLsbD 0))

/-- R176: CRYPT writes the bytes and leaves the STATE and OBIT of a GEN into a scratch region disjoint from the others
followed by an XOR with it; only the scratch region differs. -/
def Obligations.CryptEqualsGenThenXor : Prop :=
  ∀ (s v g t r u : State) (f : Word),
    exec .crypt s = .next v → v.err = .none →
    g = { s with addrD := f } → exec .gen g = .next t → t.err = .none →
    ¬ Overlap f.toNat s.la s.a s.la → ¬ Overlap f.toNat s.la s.d s.la →
    r = { t with addrB := f, lenB := s.lenA, addrD := s.addrD } → exec .xor r = .next u → u.err = .none →
    (∀ i < s.la, v.readByte (s.d + i) = u.readByte (s.d + i)) ∧
    (∀ x, (x < f.toNat ∨ f.toNat + s.la ≤ x) → v.readByte x = u.readByte x) ∧
    v.state = u.state ∧ v.obit = u.obit

/-- R177: CRYPT applied twice, first to D1 and then from D1 to D2, gives the data back. -/
def Obligations.CryptTwiceRestoresData : Prop :=
  ∀ (s t r u : State) (d2 : Word),
    exec .crypt s = .next t → t.err = .none →
    r = { t with addrA := s.addrD, addrD := d2 } → exec .crypt r = .next u → u.err = .none →
    ∀ i < s.la, u.readByte (d2.toNat + i) = s.readByte (s.a + i)

/-- R193: UNPACK then PACK restores the bytes, and PACK never finds a bad unit there; PACK then UNPACK returns the units
padded with zero units up to a multiple of 8. -/
def Obligations.ConversionRoundTrips : Prop :=
  (∀ (s t r : State) (n e : Word),
    exec .unpack s = .next t → t.err = .none → n.toNat = 8 * s.la →
    r = { t with addrA := s.addrD, lenA := n, addrD := e } →
    PackInside r → ¬ Overlap r.d ((r.la + 7) / 8) r.a r.la →
    ∃ v, exec .pack r = .next v ∧ v.err = .none ∧ ∀ i < s.la, v.readByte (e.toNat + i) = s.readByte (s.a + i)) ∧
  ∀ (s t r : State) (n e : Word),
    exec .pack s = .next t → t.err = .none → n.toNat = (s.la + 7) / 8 →
    r = { t with addrA := s.addrD, lenA := n, addrD := e } → UnpackOk r →
    ∃ v, exec .unpack r = .next v ∧ v.err = .none ∧
      ∀ i < 8 * n.toNat, v.readByte (e.toNat + i) = if i < s.la then s.readByte (s.a + i) else 0x00
end

