-- ==== Sys2Proof/Laws/Loops.lean ====
section
/-! SUPPORT. Everything a loop can do: an invariant indexed by the number of iterations done (R15). -/

namespace Sys2Proof.Machine

@[simp] theorem forUp_zero {σ : Type} (body : Nat → σ → σ) (x : σ) : forUp 0 body x = x := rfl

@[simp] theorem forUp_succ {σ : Type} (n : Nat) (body : Nat → σ → σ) (x : σ) :
    forUp (n + 1) body x = body n (forUp n body x) := rfl

/-- The loop rule: what holds before, and is carried from i to i + 1 iterations, holds after n. -/
theorem forUp_invariant {σ : Type} {body : Nat → σ → σ} {x : σ} (P : Nat → σ → Prop) (n : Nat)
    (h0 : P 0 x) (hs : ∀ i y, i < n → P i y → P (i + 1) (body i y)) : P n (forUp n body x) := by
  induction n with
  | zero => exact h0
  | succ k ih =>
    exact hs k _ (Nat.lt_succ_self k) (ih (fun i y hi => hs i y (Nat.lt_succ_of_lt hi)))

/-- A field no iteration changes is unchanged by the loop. -/
theorem forUp_keeps {σ τ : Type} {body : Nat → σ → σ} (f : σ → τ) (h : ∀ i y, f (body i y) = f y)
    (n : Nat) (x : σ) : f (forUp n body x) = f x := by
  induction n with
  | zero => rfl
  | succ k ih => rw [forUp_succ, h, ih]

/-- `allBelow` is the bounded quantifier. -/
theorem allBelow_iff (n : Nat) (p : Nat → Bool) : allBelow n p = true ↔ ∀ i < n, p i = true := by
  induction n with
  | zero => simp [allBelow]
  | succ k ih =>
    simp only [allBelow, Bool.and_eq_true, ih]
    constructor
    · rintro ⟨h, hk⟩ i hi
      rcases Nat.lt_succ_iff_lt_or_eq.mp hi with h' | rfl
      · exact h i h'
      · exact hk
    · intro h
      exact ⟨fun i hi => h i (by omega), h k (by omega)⟩

end Sys2Proof.Machine
end

