-- ==== Sys2Proof/Laws/State.lean ====
section
/-! SUPPORT. What each update of the state leaves in each field: true by rfl, so that no proof unfolds a record update. -/

namespace Sys2Proof.Machine

variable (s : State)

@[simp] theorem writeByte_fields (a : Nat) (v : Byte) :
    (s.writeByte a v).len = s.len ∧ (s.writeByte a v).keychk = s.keychk ∧
    (s.writeByte a v).done = s.done ∧ (s.writeByte a v).ovr = s.ovr ∧
    (s.writeByte a v).obit = s.obit ∧ (s.writeByte a v).err = s.err ∧
    (s.writeByte a v).cnt = s.cnt ∧ (s.writeByte a v).bad = s.bad ∧
    (s.writeByte a v).seed = s.seed ∧ (s.writeByte a v).taps = s.taps ∧
    (s.writeByte a v).state = s.state ∧ (s.writeByte a v).addrA = s.addrA ∧
    (s.writeByte a v).lenA = s.lenA ∧ (s.writeByte a v).addrB = s.addrB ∧
    (s.writeByte a v).lenB = s.lenB ∧ (s.writeByte a v).addrD = s.addrD ∧
    (s.writeByte a v).memBytes = s.memBytes ∧ (s.writeByte a v).mem = Memory.put s.mem a v ∧
    (s.writeByte a v).pend = s.pend ∧ (s.writeByte a v).inReset = s.inReset ∧
    (s.writeByte a v).draw = s.draw ∧ (s.writeByte a v).agenda = s.agenda ∧
    (s.writeByte a v).resp = s.resp := by
  simp only [State.writeByte, and_self]

@[simp] theorem accept_fields (w : Word) :
    (s.accept w).len = s.len ∧ (s.accept w).keychk = s.keychk ∧
    (s.accept w).done = false ∧ (s.accept w).ovr = s.ovr ∧
    (s.accept w).obit = s.obit ∧ (s.accept w).err = .none ∧
    (s.accept w).cnt = s.cnt ∧ (s.accept w).bad = s.bad ∧
    (s.accept w).seed = s.seed ∧ (s.accept w).taps = s.taps ∧
    (s.accept w).state = s.state ∧ (s.accept w).addrA = s.addrA ∧
    (s.accept w).lenA = s.lenA ∧ (s.accept w).addrB = s.addrB ∧
    (s.accept w).lenB = s.lenB ∧ (s.accept w).addrD = s.addrD ∧
    (s.accept w).memBytes = s.memBytes ∧ (s.accept w).mem = s.mem ∧
    (s.accept w).pend = some w ∧ (s.accept w).inReset = s.inReset ∧
    (s.accept w).draw = s.draw ∧ (s.accept w).agenda = s.agenda ∧
    (s.accept w).resp = s.resp := by
  simp only [State.accept, and_self]

@[simp] theorem complete_fields (c : ErrCode) :
    (s.complete c).len = s.len ∧ (s.complete c).keychk = s.keychk ∧
    (s.complete c).done = true ∧ (s.complete c).ovr = s.ovr ∧
    (s.complete c).obit = s.obit ∧ (s.complete c).err = c ∧
    (s.complete c).cnt = s.cnt ∧ (s.complete c).bad = s.bad ∧
    (s.complete c).seed = s.seed ∧ (s.complete c).taps = s.taps ∧
    (s.complete c).state = s.state ∧ (s.complete c).addrA = s.addrA ∧
    (s.complete c).lenA = s.lenA ∧ (s.complete c).addrB = s.addrB ∧
    (s.complete c).lenB = s.lenB ∧ (s.complete c).addrD = s.addrD ∧
    (s.complete c).memBytes = s.memBytes ∧ (s.complete c).mem = s.mem ∧
    (s.complete c).pend = none ∧ (s.complete c).inReset = s.inReset ∧
    (s.complete c).draw = s.draw ∧ (s.complete c).agenda = s.agenda ∧
    (s.complete c).resp = s.resp := by
  simp only [State.complete, and_self]

@[simp] theorem overrun_fields :
    (s.overrun).len = s.len ∧ (s.overrun).keychk = s.keychk ∧
    (s.overrun).done = s.done ∧ (s.overrun).ovr = true ∧
    (s.overrun).obit = s.obit ∧ (s.overrun).err = s.err ∧
    (s.overrun).cnt = s.cnt ∧ (s.overrun).bad = s.bad ∧
    (s.overrun).seed = s.seed ∧ (s.overrun).taps = s.taps ∧
    (s.overrun).state = s.state ∧ (s.overrun).addrA = s.addrA ∧
    (s.overrun).lenA = s.lenA ∧ (s.overrun).addrB = s.addrB ∧
    (s.overrun).lenB = s.lenB ∧ (s.overrun).addrD = s.addrD ∧
    (s.overrun).memBytes = s.memBytes ∧ (s.overrun).mem = s.mem ∧
    (s.overrun).pend = s.pend ∧ (s.overrun).inReset = s.inReset ∧
    (s.overrun).draw = s.draw ∧ (s.overrun).agenda = s.agenda ∧
    (s.overrun).resp = s.resp := by
  simp only [State.overrun, and_self]

@[simp] theorem writeCtrl_fields (v : Word) :
    (s.writeCtrl v).len = v.extractLsb' 0 7 ∧ (s.writeCtrl v).keychk = s.keychk.written (v.extractLsb' 8 2) ∧
    (s.writeCtrl v).done = s.done ∧ (s.writeCtrl v).ovr = s.ovr ∧
    (s.writeCtrl v).obit = s.obit ∧ (s.writeCtrl v).err = s.err ∧
    (s.writeCtrl v).cnt = s.cnt ∧ (s.writeCtrl v).bad = s.bad ∧
    (s.writeCtrl v).seed = s.seed ∧ (s.writeCtrl v).taps = s.taps ∧
    (s.writeCtrl v).state = s.state ∧ (s.writeCtrl v).addrA = s.addrA ∧
    (s.writeCtrl v).lenA = s.lenA ∧ (s.writeCtrl v).addrB = s.addrB ∧
    (s.writeCtrl v).lenB = s.lenB ∧ (s.writeCtrl v).addrD = s.addrD ∧
    (s.writeCtrl v).memBytes = s.memBytes ∧ (s.writeCtrl v).mem = s.mem ∧
    (s.writeCtrl v).pend = s.pend ∧ (s.writeCtrl v).inReset = s.inReset ∧
    (s.writeCtrl v).draw = s.draw ∧ (s.writeCtrl v).agenda = s.agenda ∧
    (s.writeCtrl v).resp = s.resp := by
  simp only [State.writeCtrl, and_self]

@[simp] theorem writeStatus_fields (v : Word) :
    (s.writeStatus v).len = s.len ∧ (s.writeStatus v).keychk = s.keychk ∧
    (s.writeStatus v).done = (s.done && !v.getLsbD 1) ∧ (s.writeStatus v).ovr = (s.ovr && !v.getLsbD 2) ∧
    (s.writeStatus v).obit = s.obit ∧ (s.writeStatus v).err = s.err ∧
    (s.writeStatus v).cnt = s.cnt ∧ (s.writeStatus v).bad = s.bad ∧
    (s.writeStatus v).seed = s.seed ∧ (s.writeStatus v).taps = s.taps ∧
    (s.writeStatus v).state = s.state ∧ (s.writeStatus v).addrA = s.addrA ∧
    (s.writeStatus v).lenA = s.lenA ∧ (s.writeStatus v).addrB = s.addrB ∧
    (s.writeStatus v).lenB = s.lenB ∧ (s.writeStatus v).addrD = s.addrD ∧
    (s.writeStatus v).memBytes = s.memBytes ∧ (s.writeStatus v).mem = s.mem ∧
    (s.writeStatus v).pend = s.pend ∧ (s.writeStatus v).inReset = s.inReset ∧
    (s.writeStatus v).draw = s.draw ∧ (s.writeStatus v).agenda = s.agenda ∧
    (s.writeStatus v).resp = s.resp := by
  simp only [State.writeStatus, and_self]

@[simp] theorem writeSeedctl_fields (v : Word) :
    (s.writeSeedctl v).len = s.len ∧ (s.writeSeedctl v).keychk = s.keychk ∧
    (s.writeSeedctl v).done = s.done ∧ (s.writeSeedctl v).ovr = s.ovr ∧
    (s.writeSeedctl v).obit = s.obit ∧ (s.writeSeedctl v).err = s.err ∧
    (s.writeSeedctl v).cnt = v.extractLsb' 0 7 ∧ (s.writeSeedctl v).bad = v.getLsbD 8 ∧
    (s.writeSeedctl v).seed = s.seed ∧ (s.writeSeedctl v).taps = s.taps ∧
    (s.writeSeedctl v).state = s.state ∧ (s.writeSeedctl v).addrA = s.addrA ∧
    (s.writeSeedctl v).lenA = s.lenA ∧ (s.writeSeedctl v).addrB = s.addrB ∧
    (s.writeSeedctl v).lenB = s.lenB ∧ (s.writeSeedctl v).addrD = s.addrD ∧
    (s.writeSeedctl v).memBytes = s.memBytes ∧ (s.writeSeedctl v).mem = s.mem ∧
    (s.writeSeedctl v).pend = s.pend ∧ (s.writeSeedctl v).inReset = s.inReset ∧
    (s.writeSeedctl v).draw = s.draw ∧ (s.writeSeedctl v).agenda = s.agenda ∧
    (s.writeSeedctl v).resp = s.resp := by
  simp only [State.writeSeedctl, and_self]

@[simp] theorem clearSeed_fields :
    (s.clearSeed).len = s.len ∧ (s.clearSeed).keychk = s.keychk ∧
    (s.clearSeed).done = s.done ∧ (s.clearSeed).ovr = s.ovr ∧
    (s.clearSeed).obit = s.obit ∧ (s.clearSeed).err = s.err ∧
    (s.clearSeed).cnt = 0 ∧ (s.clearSeed).bad = false ∧
    (s.clearSeed).seed = 0 ∧ (s.clearSeed).taps = s.taps ∧
    (s.clearSeed).state = s.state ∧ (s.clearSeed).addrA = s.addrA ∧
    (s.clearSeed).lenA = s.lenA ∧ (s.clearSeed).addrB = s.addrB ∧
    (s.clearSeed).lenB = s.lenB ∧ (s.clearSeed).addrD = s.addrD ∧
    (s.clearSeed).memBytes = s.memBytes ∧ (s.clearSeed).mem = s.mem ∧
    (s.clearSeed).pend = s.pend ∧ (s.clearSeed).inReset = s.inReset ∧
    (s.clearSeed).draw = s.draw ∧ (s.clearSeed).agenda = s.agenda ∧
    (s.clearSeed).resp = s.resp := by
  simp only [State.clearSeed, and_self]

@[simp] theorem loadSeed_fields :
    (s.loadSeed).len = s.len ∧ (s.loadSeed).keychk = s.keychk ∧
    (s.loadSeed).done = s.done ∧ (s.loadSeed).ovr = s.ovr ∧
    (s.loadSeed).obit = s.obit ∧ (s.loadSeed).err = s.err ∧
    (s.loadSeed).cnt = s.cnt ∧ (s.loadSeed).bad = s.bad ∧
    (s.loadSeed).seed = s.seed ∧ (s.loadSeed).taps = s.taps ∧
    (s.loadSeed).state = s.seed &&& ones s.regLen ∧ (s.loadSeed).addrA = s.addrA ∧
    (s.loadSeed).lenA = s.lenA ∧ (s.loadSeed).addrB = s.addrB ∧
    (s.loadSeed).lenB = s.lenB ∧ (s.loadSeed).addrD = s.addrD ∧
    (s.loadSeed).memBytes = s.memBytes ∧ (s.loadSeed).mem = s.mem ∧
    (s.loadSeed).pend = s.pend ∧ (s.loadSeed).inReset = s.inReset ∧
    (s.loadSeed).draw = s.draw ∧ (s.loadSeed).agenda = s.agenda ∧
    (s.loadSeed).resp = s.resp := by
  simp only [State.loadSeed, and_self]

@[simp] theorem emit_fields :
    (s.emit).len = s.len ∧ (s.emit).keychk = s.keychk ∧
    (s.emit).done = s.done ∧ (s.emit).ovr = s.ovr ∧
    (s.emit).obit = (lfsrStep s.state s.taps s.regLen).1 ∧ (s.emit).err = s.err ∧
    (s.emit).cnt = s.cnt ∧ (s.emit).bad = s.bad ∧
    (s.emit).seed = s.seed ∧ (s.emit).taps = s.taps ∧
    (s.emit).state = (lfsrStep s.state s.taps s.regLen).2 ∧ (s.emit).addrA = s.addrA ∧
    (s.emit).lenA = s.lenA ∧ (s.emit).addrB = s.addrB ∧
    (s.emit).lenB = s.lenB ∧ (s.emit).addrD = s.addrD ∧
    (s.emit).memBytes = s.memBytes ∧ (s.emit).mem = s.mem ∧
    (s.emit).pend = s.pend ∧ (s.emit).inReset = s.inReset ∧
    (s.emit).draw = s.draw ∧ (s.emit).agenda = s.agenda ∧
    (s.emit).resp = s.resp := by
  simp only [State.emit, and_self]

@[simp] theorem popEvent_fields :
    (s.popEvent).len = s.len ∧ (s.popEvent).keychk = s.keychk ∧
    (s.popEvent).done = s.done ∧ (s.popEvent).ovr = s.ovr ∧
    (s.popEvent).obit = s.obit ∧ (s.popEvent).err = s.err ∧
    (s.popEvent).cnt = s.cnt ∧ (s.popEvent).bad = s.bad ∧
    (s.popEvent).seed = s.seed ∧ (s.popEvent).taps = s.taps ∧
    (s.popEvent).state = s.state ∧ (s.popEvent).addrA = s.addrA ∧
    (s.popEvent).lenA = s.lenA ∧ (s.popEvent).addrB = s.addrB ∧
    (s.popEvent).lenB = s.lenB ∧ (s.popEvent).addrD = s.addrD ∧
    (s.popEvent).memBytes = s.memBytes ∧ (s.popEvent).mem = s.mem ∧
    (s.popEvent).pend = s.pend ∧ (s.popEvent).inReset = s.inReset ∧
    (s.popEvent).draw = s.draw ∧ (s.popEvent).agenda = s.agenda.tail ∧
    (s.popEvent).resp = s.resp := by
  simp only [State.popEvent, and_self]

@[simp] theorem releaseReset_fields :
    (s.releaseReset).len = s.len ∧ (s.releaseReset).keychk = s.keychk ∧
    (s.releaseReset).done = s.done ∧ (s.releaseReset).ovr = s.ovr ∧
    (s.releaseReset).obit = s.obit ∧ (s.releaseReset).err = s.err ∧
    (s.releaseReset).cnt = s.cnt ∧ (s.releaseReset).bad = s.bad ∧
    (s.releaseReset).seed = s.seed ∧ (s.releaseReset).taps = s.taps ∧
    (s.releaseReset).state = s.state ∧ (s.releaseReset).addrA = s.addrA ∧
    (s.releaseReset).lenA = s.lenA ∧ (s.releaseReset).addrB = s.addrB ∧
    (s.releaseReset).lenB = s.lenB ∧ (s.releaseReset).addrD = s.addrD ∧
    (s.releaseReset).memBytes = s.memBytes ∧ (s.releaseReset).mem = s.mem ∧
    (s.releaseReset).pend = s.pend ∧ (s.releaseReset).inReset = false ∧
    (s.releaseReset).draw = s.draw ∧ (s.releaseReset).agenda = s.agenda ∧
    (s.releaseReset).resp = s.resp := by
  simp only [State.releaseReset, and_self]

@[simp] theorem issue_fields (w : Word) :
    (s.issue w).len = s.len ∧ (s.issue w).keychk = s.keychk ∧
    (s.issue w).done = false ∧ (s.issue w).ovr = s.ovr ∧
    (s.issue w).obit = s.obit ∧ (s.issue w).err = .none ∧
    (s.issue w).cnt = s.cnt ∧ (s.issue w).bad = s.bad ∧
    (s.issue w).seed = s.seed ∧ (s.issue w).taps = s.taps ∧
    (s.issue w).state = s.state ∧ (s.issue w).addrA = s.addrA ∧
    (s.issue w).lenA = s.lenA ∧ (s.issue w).addrB = s.addrB ∧
    (s.issue w).lenB = s.lenB ∧ (s.issue w).addrD = s.addrD ∧
    (s.issue w).memBytes = s.memBytes ∧ (s.issue w).mem = s.mem ∧
    (s.issue w).pend = some w ∧ (s.issue w).inReset = s.inReset ∧
    (s.issue w).draw = s.draw ∧ (s.issue w).agenda = .engine :: s.agenda ∧
    (s.issue w).resp = s.resp := by
  simp only [State.issue, State.accept, and_self]

@[simp] theorem enqueue_fields (es : List Event) :
    (s.enqueue es).len = s.len ∧ (s.enqueue es).keychk = s.keychk ∧
    (s.enqueue es).done = s.done ∧ (s.enqueue es).ovr = s.ovr ∧
    (s.enqueue es).obit = s.obit ∧ (s.enqueue es).err = s.err ∧
    (s.enqueue es).cnt = s.cnt ∧ (s.enqueue es).bad = s.bad ∧
    (s.enqueue es).seed = s.seed ∧ (s.enqueue es).taps = s.taps ∧
    (s.enqueue es).state = s.state ∧ (s.enqueue es).addrA = s.addrA ∧
    (s.enqueue es).lenA = s.lenA ∧ (s.enqueue es).addrB = s.addrB ∧
    (s.enqueue es).lenB = s.lenB ∧ (s.enqueue es).addrD = s.addrD ∧
    (s.enqueue es).memBytes = s.memBytes ∧ (s.enqueue es).mem = s.mem ∧
    (s.enqueue es).pend = s.pend ∧ (s.enqueue es).inReset = s.inReset ∧
    (s.enqueue es).draw = s.draw ∧ (s.enqueue es).agenda = s.agenda ++ es ∧
    (s.enqueue es).resp = s.resp := by
  simp only [State.enqueue, and_self]

@[simp] theorem assertReset_fields :
    (s.assertReset).len = State.reset.len ∧ (s.assertReset).keychk = State.reset.keychk ∧
    (s.assertReset).done = State.reset.done ∧ (s.assertReset).ovr = State.reset.ovr ∧
    (s.assertReset).obit = State.reset.obit ∧ (s.assertReset).err = State.reset.err ∧
    (s.assertReset).cnt = State.reset.cnt ∧ (s.assertReset).bad = State.reset.bad ∧
    (s.assertReset).seed = State.reset.seed ∧ (s.assertReset).taps = State.reset.taps ∧
    (s.assertReset).state = State.reset.state ∧ (s.assertReset).addrA = State.reset.addrA ∧
    (s.assertReset).lenA = State.reset.lenA ∧ (s.assertReset).addrB = State.reset.addrB ∧
    (s.assertReset).lenB = State.reset.lenB ∧ (s.assertReset).addrD = State.reset.addrD ∧
    (s.assertReset).memBytes = s.memBytes ∧ (s.assertReset).mem = State.reset.mem ∧
    (s.assertReset).pend = State.reset.pend ∧ (s.assertReset).inReset = true ∧
    (s.assertReset).draw = s.draw + 1 ∧ (s.assertReset).agenda = s.agenda ∧
    (s.assertReset).resp = State.reset.resp := by
  simp only [State.assertReset, and_self]

/-- The operands of a command read the same in two states with the same registers. -/
theorem operands_eq {s t : State} (hl : t.len = s.len) (ha : t.addrA = s.addrA) (hla : t.lenA = s.lenA)
    (hb : t.addrB = s.addrB) (hlb : t.lenB = s.lenB) (hd : t.addrD = s.addrD) :
    t.regLen = s.regLen ∧ t.a = s.a ∧ t.la = s.la ∧ t.b = s.b ∧ t.lb = s.lb ∧ t.d = s.d := by
  simp only [State.regLen, State.a, State.la, State.b, State.lb, State.d, hl, ha, hla, hb, hlb, hd, and_self]

end Sys2Proof.Machine
end

