-- ==== Sys2Proof/Laws/Memory.lean ====
section
/-! SUPPORT. MEM: reads after writes, and that every write keeps the canonical form (R13, R68). -/

namespace Sys2Proof.Machine

theorem find_put (m : Memory) (a b : Nat) (v : Byte) :
    Memory.find (Memory.put m a v) b = if b = a then some v else Memory.find m b := by
  induction m with
  | nil => simp [Memory.put, Memory.find]
  | cons c m ih =>
    obtain ⟨k, u⟩ := c
    simp only [Memory.put]
    by_cases h1 : a < k
    · simp [h1, Memory.find]
    · by_cases h2 : a = k
      · subst h2
        by_cases h3 : b = a <;> simp [h3, Memory.find]
      · by_cases h3 : b = k
        · subst h3
          simp [h1, h2, Memory.find, Ne.symm h2]
        · simp [h1, h2, h3, Memory.find, ih]

/-- Reading the byte just written, or any other byte. -/
theorem readByte_writeByte (s : State) (a b : Nat) (v : Byte) :
    (s.writeByte a v).readByte b = if b = a then v else s.readByte b := by
  simp only [State.readByte, writeByte_fields, find_put]
  split_ifs <;> rfl

@[simp] theorem readByte_writeByte_same (s : State) (a : Nat) (v : Byte) :
    (s.writeByte a v).readByte a = v := by simp [readByte_writeByte]

theorem readByte_writeByte_other (s : State) {a b : Nat} (v : Byte) (h : b ≠ a) :
    (s.writeByte a v).readByte b = s.readByte b := by simp [readByte_writeByte, h]

/-- A byte reads the same in two states with the same MEM. -/
theorem readByte_congr {s t : State} (hm : t.mem = s.mem) (hd : t.draw = s.draw) (x : Nat) :
    t.readByte x = s.readByte x := by simp only [State.readByte, hm, hd]

/-! The operations that leave MEM alone leave every byte as it reads. -/

@[simp] theorem readByte_accept (s : State) (w : Word) (x : Nat) :
    (s.accept w).readByte x = s.readByte x := rfl

@[simp] theorem readByte_complete (s : State) (c : ErrCode) (x : Nat) :
    (s.complete c).readByte x = s.readByte x := rfl

@[simp] theorem readByte_overrun (s : State) (x : Nat) :
    (s.overrun).readByte x = s.readByte x := rfl

@[simp] theorem readByte_writeCtrl (s : State) (v : Word) (x : Nat) :
    (s.writeCtrl v).readByte x = s.readByte x := rfl

@[simp] theorem readByte_writeStatus (s : State) (v : Word) (x : Nat) :
    (s.writeStatus v).readByte x = s.readByte x := rfl

@[simp] theorem readByte_writeSeedctl (s : State) (v : Word) (x : Nat) :
    (s.writeSeedctl v).readByte x = s.readByte x := rfl

@[simp] theorem readByte_clearSeed (s : State) (x : Nat) :
    (s.clearSeed).readByte x = s.readByte x := rfl

@[simp] theorem readByte_loadSeed (s : State) (x : Nat) :
    (s.loadSeed).readByte x = s.readByte x := rfl

@[simp] theorem readByte_emit (s : State) (x : Nat) :
    (s.emit).readByte x = s.readByte x := rfl

@[simp] theorem readByte_popEvent (s : State) (x : Nat) :
    (s.popEvent).readByte x = s.readByte x := rfl

/-- The addresses of a memory after a write. -/
theorem mem_put (m : Memory) (a : Nat) (v : Byte) (c : Host.Cell) (h : c ∈ Memory.put m a v) :
    c = (a, v) ∨ c ∈ m := by
  induction m with
  | nil => simpa [Memory.put] using h
  | cons d m ih =>
    obtain ⟨k, u⟩ := d
    simp only [Memory.put] at h
    split_ifs at h with h1 h2
    · simpa using h
    · rcases List.mem_cons.mp h with h | h
      · exact .inl h
      · exact .inr (List.mem_cons_of_mem _ h)
    · rcases List.mem_cons.mp h with h | h
      · exact .inr (h ▸ List.mem_cons_self)
      · exact (ih h).imp id (List.mem_cons_of_mem _)

theorem wf_cons (a : Nat) (v : Byte) (m : Memory) :
    Memory.wf ((a, v) :: m) = true ↔ (∀ c ∈ m, a < c.1) ∧ Memory.wf m = true := by
  simp [Memory.wf]

/-- A write keeps the addresses strictly rising. -/
theorem wf_put (m : Memory) (a : Nat) (v : Byte) (h : Memory.wf m = true) :
    Memory.wf (Memory.put m a v) = true := by
  induction m with
  | nil => simp [Memory.put, Memory.wf]
  | cons d m ih =>
    obtain ⟨k, u⟩ := d
    rw [wf_cons] at h
    simp only [Memory.put]
    split_ifs with h1 h2
    · rw [wf_cons, wf_cons]
      refine ⟨fun c hc => ?_, h⟩
      rcases List.mem_cons.mp hc with rfl | hc
      · exact h1
      · exact h1.trans (h.1 c hc)
    · subst h2; exact (wf_cons _ _ _).mpr h
    · rw [wf_cons]
      refine ⟨fun c hc => ?_, ih h.2⟩
      rcases mem_put m a v c hc with rfl | hc
      · show k < a; omega
      · exact h.1 c hc

/-- MEM of a state is canonical and inside 0..MEM_BYTES-1. -/
def State.memOk (s : State) : Prop := Memory.wf s.mem = true ∧ ∀ c ∈ s.mem, c.1 < s.memBytes

/-- A write inside MEM keeps that. -/
theorem memOk_writeByte {s : State} (h : s.memOk) {a : Nat} (ha : a < s.memBytes) (v : Byte) :
    (s.writeByte a v).memOk := by
  refine ⟨wf_put _ _ _ h.1, fun c hc => ?_⟩
  rcases mem_put _ _ _ _ hc with rfl | hc
  · exact ha
  · exact h.2 c hc

/-- A loop of writes inside MEM keeps that. -/
theorem memOk_forUp {body : Nat → State → State} {s : State} (n : Nat) (h : s.memOk)
    (hb : ∀ i t, i < n → t.memOk → t.memBytes = s.memBytes →
      (body i t).memOk ∧ (body i t).memBytes = s.memBytes) :
    (forUp n body s).memOk ∧ (forUp n body s).memBytes = s.memBytes :=
  forUp_invariant (fun _ t => t.memOk ∧ t.memBytes = s.memBytes) n ⟨h, rfl⟩
    (fun i t hi ht => hb i t hi ht.1 ht.2)

/-- A bus write keeps that, and changes nothing but MEM (R62). -/
theorem memOk_memWrite {s : State} (h : s.memOk) {k n : Nat} (hk : k + n ≤ s.memBytes) (v : Word) :
    (s.memWrite k n v).memOk :=
  (memOk_forUp n h (fun i t hi ht hm => ⟨memOk_writeByte ht (by omega) _, by simpa using hm⟩)).1

/-- What a bus write leaves in every other field (R62). -/
theorem memWrite_eq (s : State) (k n : Nat) (v : Word) :
    s.memWrite k n v = { s with mem := (s.memWrite k n v).mem } := by
  unfold State.memWrite
  exact forUp_invariant (fun _ (t : State) => t = { s with mem := t.mem }) n rfl
    (fun i t _ ht => by rw [ht]; rfl)

/-- What a bus write leaves in each byte: byte x - k of the data inside, the old byte outside (R62, R64). -/
theorem readByte_memWrite (s : State) (k n : Nat) (v : Word) (x : Nat) :
    (s.memWrite k n v).readByte x =
      if k ≤ x ∧ x < k + n then (v >>> (8 * (x - k))).setWidth 8 else s.readByte x := by
  refine forUp_invariant
    (fun i (t : State) => t.readByte x = if k ≤ x ∧ x < k + i then (v >>> (8 * (x - k))).setWidth 8 else s.readByte x)
    n ?_ ?_
  · rw [if_neg (by omega)]
  · intro i t _ ht
    rw [readByte_writeByte]
    by_cases hx : x = k + i
    · subst hx
      rw [if_pos rfl, if_pos (by omega), Nat.add_sub_cancel_left]
    · rw [if_neg hx, ht]
      exact if_congr (by omega) rfl rfl

end Sys2Proof.Machine
end

