-- ==== Sys2Proof/Laws/Bus.lean ====
section
/-! SUPPORT. Everything a bus transaction can reach and do (R60 to R63, R246). -/

namespace Sys2Proof.Machine

open Sys2Proof.Safety

/-- A register is found at its own offset (R24). -/
theorem target_reg_offset (s : State) (r : Reg) : s.target r.offset .b4 = some (.reg r) := by
  cases r <;> rfl

/-- The two words of a 64-bit value written and read apart (R12, R64). -/
@[simp] theorem loWord_withLo (v : DWord) (w : Word) : loWord (withLo v w) = w := by
  simp only [loWord, withLo]
  exact BitVec.extractLsb'_append_eq_right

@[simp] theorem hiWord_withHi (v : DWord) (w : Word) : hiWord (withHi v w) = w := by
  simp only [hiWord, withHi]
  exact BitVec.extractLsb'_append_eq_left

@[simp] theorem hiWord_withLo (v : DWord) (w : Word) : hiWord (withLo v w) = hiWord v := by
  simp only [hiWord, withLo]
  exact BitVec.extractLsb'_append_eq_left

@[simp] theorem loWord_withHi (v : DWord) (w : Word) : loWord (withHi v w) = loWord v := by
  simp only [loWord, withHi]
  exact BitVec.extractLsb'_append_eq_right

/-- A window target lies inside MEM and is aligned (R62). -/
theorem target_window {s : State} {o : BitVec 17} {z : Size} {k : Nat} (h : s.target o z = some (.window k)) :
    o.toNat = 0x10000 + k ∧ k % z.bytes = 0 ∧ k + z.bytes ≤ s.memBytes := by
  unfold State.target at h
  split_ifs at h with h1 h2 h3 h4
  · cases hr : regAt (o.toNat / 4) <;> simp [hr] at h
  · simp only [Option.some.injEq, Target.window.injEq] at h
    subst h
    exact ⟨by omega, h4.1, h4.2⟩

/-- What an offset reaches depends on no field but MEM_BYTES. -/
theorem target_congr {s t : State} (h : t.memBytes = s.memBytes) (o : BitVec 17) (z : Size) :
    t.target o z = s.target o z := by simp only [State.target, h]

/-- A write while busy to anything but STATUS sets OVR and does nothing else (R246). -/
theorem busWrite_busy {s : State} {g : Target} (hb : s.busy = true) (hg : g ≠ .reg .status) (z : Size) (v : Word) :
    s.busWrite g z v = s.overrun := by
  unfold State.busWrite
  split
  · exact absurd rfl hg
  · simp [hb]
  · simp [hb]

/-- A STATUS write takes effect busy or not (R31, R246). -/
@[simp] theorem busWrite_status (s : State) (z : Size) (v : Word) :
    s.busWrite (.reg .status) z v = s.writeStatus v := rfl

/-- Everything a transaction can do to the state: nothing (a read, or BUSERR), or the write of its target. -/
theorem transact_cases (s : State) (t : Transaction) :
    (s.transact t).1 = s ∨
    ∃ o z v g, t = .write o z v ∧ s.target o z = some g ∧ (s.transact t).1 = s.busWrite g z v := by
  cases t with
  | read o z =>
    left; simp only [State.transact]; split <;> rfl
  | write o z v =>
    cases hg : s.target o z with
    | none => left; simp [State.transact, hg]
    | some g => right; exact ⟨o, z, v, g, rfl, hg, by simp [State.transact, hg]⟩

/-- The host's turn outside reset. -/
theorem hostStep_next (t : Transaction) {s : State} (h : s.inReset = false) :
    hostStep t s = .next { (s.transact t).1 with resp := some (s.transact t).2 } := by
  simp [hostStep, h]

end Sys2Proof.Machine
end

