-- ==== Sys2Proof/Laws/Checks.lean ====
section
/-! SUPPORT. What each check of R125 decides, and everything a command can answer. -/

namespace Sys2Proof.Machine

open Sys2Proof.Safety

/-- No check fails exactly when each passes. -/
theorem firstError_none_iff (cs : List Check) : firstError cs = none ↔ ∀ c ∈ cs, c.1 = true := by
  induction cs with
  | nil => simp [firstError]
  | cons c cs ih =>
    obtain ⟨ok, code⟩ := c
    cases ok <;> simp [firstError, ih]

/-- A failing check reports a code of the list. -/
theorem firstError_mem {cs : List Check} {code : ErrCode} (h : firstError cs = some code) :
    (false, code) ∈ cs := by
  induction cs with
  | nil => simp [firstError] at h
  | cons c cs ih =>
    obtain ⟨ok, k⟩ := c
    cases ok
    · simp only [firstError, Bool.false_eq_true, if_false, Option.some.injEq] at h
      exact h ▸ List.mem_cons_self
    · exact List.mem_cons_of_mem _ (ih h)

/-- Everything a command can do: complete with the code of its first failing check and nothing else, or complete with
its effect. -/
theorem command_cases {s t : State} {cs : List Check} {e : State → State} (h : s.command cs e = .next t) :
    (∃ c, firstError cs = some c ∧ t = s.complete c) ∨ (firstError cs = none ∧ t = (e s).complete .none) := by
  unfold State.command at h
  split at h
  · rename_i c hc
    exact .inl ⟨c, hc, by injection h with h; exact h.symm⟩
  · rename_i hc
    exact .inr ⟨hc, by injection h with h; exact h.symm⟩

/-- A command all of whose checks pass has its effect and completes with ERR = 0. -/
theorem command_ok {s : State} {cs : List Check} {e : State → State} (h : firstError cs = none) :
    s.command cs e = .next ((e s).complete .none) := by simp [State.command, h]

/-- A command one of whose checks fails changes nothing but the completion fields. -/
theorem command_error {s : State} {cs : List Check} {e : State → State} {c : ErrCode}
    (h : firstError cs = some c) : s.command cs e = .next (s.complete c) := by simp [State.command, h]

/-- A command always answers a next state. -/
theorem command_answers (s : State) (cs : List Check) (e : State → State) : ∃ t, s.command cs e = .next t := by
  unfold State.command; split <;> exact ⟨_, rfl⟩

@[simp] theorem lenCheck_pass (s : State) : s.lenCheck.1 = true ↔ LenLegal s := by
  
  simp only [State.lenCheck, Bool.and_eq_true, decide_eq_true_eq]; rfl

@[simp] theorem seedCharCheck_pass (s : State) : s.seedCharCheck.1 = true ↔ s.bad = false := by
  simp [State.seedCharCheck]

@[simp] theorem seedLenCheck_pass (s : State) : s.seedLenCheck.1 = true ↔ s.cnt = s.len := by
  simp [State.seedLenCheck, State.regLen, BitVec.toNat_inj]

/-- Bits of `ones` (R11). -/
@[simp] theorem getLsbD_ones (n i : Nat) : (ones n).getLsbD i = (decide (i < 64) && decide (i < n)) := by
  simp [ones, BitVec.getLsbD_ofNat, Nat.testBit_two_pow_sub_one]

@[simp] theorem getElem_ones (n i : Nat) (h : i < 64) : (ones n)[i] = decide (i < n) := by
  rw [← BitVec.getLsbD_eq_getElem, getLsbD_ones]; simp [h]

@[simp] theorem tapCheck_pass (s : State) : s.tapCheck.1 = true ↔ TapsLegal s := by
  simp only [State.tapCheck, State.regLen, beq_iff_eq]
  constructor
  · intro h j hj hl
    have := congrArg (fun v => v.getLsbD j) h
    simpa [hj, Nat.not_lt.mpr hl, BitVec.getLsbD_eq_getElem hj] using this
  · intro h
    apply BitVec.eq_of_getLsbD_eq
    intro j hj
    by_cases hl : j < s.len.toNat
    · simp [hj, hl]
    · simp [h j hj (Nat.le_of_not_lt hl)]

@[simp] theorem region_valid (s : State) (a n : Nat) :
    Region.valid ⟨a, n⟩ s.memBytes = true ↔ Inside s a n := by simp [Region.valid]

@[simp] theorem rangeCheck_pass (s : State) (rs : List Region) :
    (s.rangeCheck rs).1 = true ↔ ∀ r ∈ rs, Inside s r.start r.size := by
  simp [State.rangeCheck, Region.valid]

@[simp] theorem overlapCheck_pass (b : Bool) : (overlapCheck b).1 = true ↔ b = true := by simp [overlapCheck]

@[simp] theorem disjoint_iff (p m q n : Nat) :
    Region.disjoint ⟨p, m⟩ ⟨q, n⟩ = true ↔ ¬ Overlap p m q n := by
  simp [Region.disjoint, Region.overlaps]
  omega

@[simp] theorem alignedOrDisjoint_iff (p m q n : Nat) :
    Region.alignedOrDisjoint ⟨p, m⟩ ⟨q, n⟩ = true ↔ AlignedOrDisjoint p m q n := by
  simp [Region.alignedOrDisjoint, Region.overlaps]
  omega

@[simp] theorem keyCheck_pass (s : State) : s.keyCheck.1 = true ↔ KeyAccepted s := by
  unfold State.keyCheck KeyAccepted
  cases s.keychk <;> simp

@[simp] theorem unitCheck_pass (s : State) (a n : Nat) :
    (s.unitCheck ⟨a, n⟩).1 = true ↔ UnitsOnly s a n := by
  simp [State.unitCheck, allBelow_iff, isUnit, UnitsOnly]

end Sys2Proof.Machine
end

