-- ==== Sys2Proof/Laws/Decode.lean ====
section
/-! SUPPORT. Everything the decoder can answer (R91, R92). -/

namespace Sys2Proof

/-- The mask of R91 keeps the whole word. -/
theorem whole_mask (w : Word) : w &&& (0xFFFFFFFF : Word) = w := by
  rw [show (0xFFFFFFFF : Word) = BitVec.allOnes 32 by decide, BitVec.and_allOnes]

/-- A word above 8 is reserved. -/
theorem decodeWord_above (w : Word) (h : 8 < w.toNat) : decodeWord w = .reserved w := by
  have hn : opcodeMap.find? (fun r => w &&& r.mask == r.value) = none := by
    simp only [opcodeMap, List.find?_eq_none, List.mem_cons, List.not_mem_nil, or_false]
    rintro r (rfl | rfl | rfl | rfl | rfl | rfl | rfl | rfl | rfl) <;>
      (rw [whole_mask, beq_iff_eq]; rintro rfl; exact absurd h (by decide))
  simp [decodeWord, hn]

/-- Everything the decoder can answer: one of the nine commands for its one word, or a reserved word above 8. -/
theorem decodeWord_cases (w : Word) :
    (w = 0 ∧ decodeWord w = .nop) ∨ (w = 1 ∧ decodeWord w = .gen) ∨ (w = 2 ∧ decodeWord w = .xor) ∨
    (w = 3 ∧ decodeWord w = .unpack) ∨ (w = 4 ∧ decodeWord w = .pack) ∨ (w = 5 ∧ decodeWord w = .load) ∨
    (w = 6 ∧ decodeWord w = .step) ∨ (w = 7 ∧ decodeWord w = .seedclr) ∨ (w = 8 ∧ decodeWord w = .crypt) ∨
    (8 < w.toNat ∧ decodeWord w = .reserved w) := by
  by_cases h : 8 < w.toNat
  · simp only [decodeWord_above w h, h, true_and, or_true]
  · have hw : w = BitVec.ofNat 32 w.toNat := by simp
    have h9 : w.toNat ≤ 8 := by omega
    interval_cases w.toNat <;> subst hw <;> decide

/-- A word is illegal exactly when it is above 8: OP ≥ 9, or a bit of MBZ (R92). -/
theorem illegalWord_iff (w : Word) : illegalWord w = true ↔ 8 < w.toNat := by
  have hop : (w.extractLsb' 0 8).toNat = w.toNat % 256 := by simp [BitVec.extractLsb'_toNat]
  have hmbz : w.extractLsb' 8 24 = 0 ↔ w.toNat / 256 = 0 := by
    rw [← BitVec.toNat_inj, BitVec.extractLsb'_toNat, Nat.shiftRight_eq_div_pow]
    have := w.isLt
    simp only [BitVec.ofNat_eq_ofNat, BitVec.toNat_ofNat]
    omega
  simp only [illegalWord, Bool.or_eq_true, decide_eq_true_eq, bne_iff_ne, ne_eq, hop, hmbz]
  omega

end Sys2Proof
end

