-- ==== Sys2Proof/Laws/Dispatch.lean ====
section
/-! SUPPORT. Every command as its list of checks and its effect, and what the effects leave alone. -/

namespace Sys2Proof.Machine

/-- The checks of a command, in the order of R125. -/
def checksOf (s : State) : Instr → List Check
  | .nop => []
  | .gen => [s.lenCheck, s.seedCharCheck, s.seedLenCheck, s.tapCheck, s.rangeCheck [⟨s.d, s.la⟩]]
  | .xor =>
    [s.rangeCheck [⟨s.a, s.la⟩, ⟨s.b, s.lb⟩, ⟨s.d, s.la⟩],
     overlapCheck (Region.alignedOrDisjoint ⟨s.d, s.la⟩ ⟨s.a, s.la⟩),
     overlapCheck (Region.alignedOrDisjoint ⟨s.d, s.la⟩ ⟨s.b, s.keyLen⟩), s.keyCheck]
  | .unpack =>
    [s.rangeCheck [⟨s.a, s.la⟩, ⟨s.d, 8 * s.la⟩],
     overlapCheck (Region.disjoint ⟨s.d, 8 * s.la⟩ ⟨s.a, s.la⟩)]
  | .pack =>
    [s.rangeCheck [⟨s.a, s.la⟩, ⟨s.d, s.packLen⟩],
     overlapCheck (Region.disjoint ⟨s.d, s.packLen⟩ ⟨s.a, s.la⟩), s.unitCheck ⟨s.a, s.la⟩]
  | .load => [s.lenCheck, s.seedCharCheck, s.seedLenCheck]
  | .step => [s.lenCheck, s.tapCheck]
  | .seedclr => []
  | .crypt =>
    [s.lenCheck, s.seedCharCheck, s.seedLenCheck, s.tapCheck,
     s.rangeCheck [⟨s.a, s.la⟩, ⟨s.d, s.la⟩],
     overlapCheck (Region.alignedOrDisjoint ⟨s.d, s.la⟩ ⟨s.a, s.la⟩)]
  | .reserved _ => [(false, .badCmd)]

/-- The effect of a command whose checks pass. -/
def effectOf (s : State) : Instr → State
  | .nop => s
  | .gen => s.genEffect
  | .xor => s.xorEffect
  | .unpack => s.unpackEffect
  | .pack => s.packEffect
  | .load => s.loadSeed
  | .step => s.emit
  | .seedclr => s.clearSeed
  | .crypt => s.cryptEffect
  | .reserved _ => s

/-- Everything exec can do: the command with those checks and that effect. -/
theorem exec_eq_command (i : Instr) (s : State) :
    exec i s = s.command (checksOf s i) (fun _ => effectOf s i) := by cases i <;> rfl

/-- GEN changes MEM, STATE and OBIT only. -/
theorem genEffect_eq (s : State) :
    s.genEffect = { s with mem := s.genEffect.mem, state := s.genEffect.state, obit := s.genEffect.obit } := by
  unfold State.genEffect
  exact forUp_invariant
    (fun _ (t : State) => t = { s with mem := t.mem, state := t.state, obit := t.obit }) _ rfl
    (fun i t _ ht => by rw [ht]; rfl)

/-- CRYPT changes MEM, STATE and OBIT only. -/
theorem cryptEffect_eq (s : State) :
    s.cryptEffect =
      { s with mem := s.cryptEffect.mem, state := s.cryptEffect.state, obit := s.cryptEffect.obit } := by
  unfold State.cryptEffect
  exact forUp_invariant
    (fun _ (t : State) => t = { s with mem := t.mem, state := t.state, obit := t.obit }) _ rfl
    (fun i t _ ht => by rw [ht]; rfl)

/-- XOR changes MEM only. -/
theorem xorEffect_eq (s : State) : s.xorEffect = { s with mem := s.xorEffect.mem } := by
  unfold State.xorEffect
  exact forUp_invariant (fun _ (t : State) => t = { s with mem := t.mem }) _ rfl
    (fun i t _ ht => by rw [ht]; rfl)

/-- PACK changes MEM only. -/
theorem packEffect_eq (s : State) : s.packEffect = { s with mem := s.packEffect.mem } := by
  unfold State.packEffect
  exact forUp_invariant (fun _ (t : State) => t = { s with mem := t.mem }) _ rfl
    (fun i t _ ht => by rw [ht]; rfl)

/-- UNPACK changes MEM only. -/
theorem unpackEffect_eq (s : State) : s.unpackEffect = { s with mem := s.unpackEffect.mem } := by
  unfold State.unpackEffect
  exact forUp_invariant (fun _ (t : State) => t = { s with mem := t.mem }) _ rfl
    (fun i t _ ht => forUp_invariant (fun _ (u : State) => u = { s with mem := u.mem }) _ ht
      (fun k u _ hu => by rw [hu]; rfl))

end Sys2Proof.Machine
end

