-- ==== Sys2Proof/Laws/Engine.lean ====
section
/-! SUPPORT. Everything a step can be: one of five turns (R17, R122, R240). -/

namespace Sys2Proof.Machine

/-- With a command pending the engine's step is that command (R122). -/
theorem engineStep_pending {s : State} {w : Word} (h : s.pend = some w) :
    engineStep s = exec (decodeWord w) s := by simp [engineStep, h]

/-- With nothing pending the engine has no step (R122). -/
theorem engineStep_idle {s : State} (h : s.pend = none) : engineStep s = .next s := by simp [engineStep, h]

/-- Taking an event off an empty agenda changes nothing. -/
theorem popEvent_empty {s : State} (h : s.agenda = []) : s.popEvent = s := by
  cases s; simp_all [State.popEvent]

/-- Everything a step can be. -/
theorem step_cases {s t : State} (h : step s = .next t) :
    engineStep s.popEvent = .next t ∨
    (∃ tr, s.agenda.head? = some (.host tr) ∧ s.inReset = false ∧
      t = { (s.popEvent.transact tr).1 with resp := some (s.popEvent.transact tr).2 }) ∨
    (s.agenda.head? = some .assertReset ∧ t = s.popEvent.assertReset) ∨
    (s.agenda.head? = some .releaseReset ∧ t = s.popEvent.releaseReset) := by
  unfold step takeTurn at h
  split at h
  · rename_i he
    rw [popEvent_empty (List.head?_eq_none_iff.mp he)]; exact .inl h
  · exact .inl h
  · rename_i tr he
    unfold hostStep at h
    split at h
    · cases h
    · rename_i hr
      injection h with h
      exact .inr (.inl ⟨tr, he, by simpa using hr, h.symm⟩)
  · rename_i he
    injection h with h
    exact .inr (.inr (.inl ⟨he, h.symm⟩))
  · rename_i he
    injection h with h
    exact .inr (.inr (.inr ⟨he, h.symm⟩))

/-- The next step after placing a word runs that word's command first. -/
theorem step_withFetchWord (s : State) (nbits w : Nat) :
    step (s.withFetchWord nbits w) =
      exec (decodeWord (BitVec.ofNat 32 (w % 2 ^ nbits))) (s.accept (BitVec.ofNat 32 (w % 2 ^ nbits))) := rfl

end Sys2Proof.Machine
end

