-- ==== Sys2Proof/Laws/PerInstr.lean ====
section
/-! SUPPORT. One lemma per command: which well-formed commands are encoded by a word of the reserved space (R92). -/

namespace Sys2Proof.Laws.WordForm

/-- R92: a well-formed command's word is illegal exactly when the command is a reserved word. -/
def Statement (i : Instr) : Prop :=
  i.wf = true → (illegalWord (encode i) = true ↔ i = .reserved (encode i))

theorem nop : Statement .nop := by intro _; decide

theorem gen : Statement .gen := by intro _; decide

theorem xor : Statement .xor := by intro _; decide

theorem unpack : Statement .unpack := by intro _; decide

theorem pack : Statement .pack := by intro _; decide

theorem load : Statement .load := by intro _; decide

theorem step : Statement .step := by intro _; decide

theorem seedclr : Statement .seedclr := by intro _; decide

theorem crypt : Statement .crypt := by intro _; decide

theorem reserved (w : Word) : Statement (.reserved w) := fun h => ⟨fun _ => rfl, fun _ => h⟩

end Sys2Proof.Laws.WordForm
end

