-- ==== Sys2Proof/Tests/Slice0.lean ====
section
/-! SUPPORT. The model's own tests (expected values from spec/30_encoding.md, 95_test_vectors.md and hand calculation), and a witness for the hypotheses of each statement. -/

namespace Sys2Proof.Tests

open Sys2Proof.Machine Sys2Proof.Safety

/-! ## Helpers -/

/-- The bytes `vs` written from `a` on. -/
def put (s : State) (a : Nat) (vs : List Byte) : State :=
  vs.zipIdx.foldl (fun t p => t.writeByte (a + p.2) p.1) s

/-- The `n` bytes from `a` on. -/
def bytes (s : State) (a n : Nat) : List Byte := (List.range n).map (fun i => s.readByte (a + i))

/-- The operand registers a, la, d. -/
def args (s : State) (a la d : Word) : State := { s with addrA := a, lenA := la, addrD := d }

/-- The key operands b, lb. -/
def key (s : State) (b lb : Word) : State := { s with addrB := b, lenB := lb }

/-- The state after a command that answers a next state. -/
def ran (i : Instr) (s : State) : State :=
  match exec i s with
  | .next t => t
  | .fault _ => s
  | .refused _ => s

/-- The state after a step that answers a next state. -/
def stepped (s : State) : State :=
  match step s with
  | .next t => t
  | .fault _ => s
  | .refused _ => s

/-- What a read answers. -/
def reads (s : State) (o : BitVec 17) (z : Size) : Response := (s.transact (.read o z)).2

/-- R = 4, taps {4,1}, seed "1000" (section 2.5 of the vectors). -/
def four : State := { State.reset with len := 4, taps := 0x9, seed := 0x1, cnt := 4 }

/-- R = 33, taps {33,13}, the alternating seed (section 2.3 of the vectors). -/
def alt : State := { State.reset with seed := 0x155555555, cnt := 33 }

/-- The data FF 00 AB at 0, the key 0F F0 00 at 0x10, the destination 0x20 (vector X1). -/
def xorState : State :=
  put (put (key (args State.reset 0 3 0x20) 0x10 3) 0 [0xFF, 0x00, 0xAB]) 0x10 [0x0F, 0xF0, 0x00]

/-- The data FF 00 AB at 0, the destination 0x10 (vectors Y1 and C2). -/
def dataState : State := put (args four 0 3 0x10) 0 [0xFF, 0x00, 0xAB]

/-- Three units at 0, the destination 0x10 (vector C4). -/
def unitState : State := put (args State.reset 0 3 0x10) 0 [0x01, 0x00, 0x01]

/-- A NOP is pending (vector B7), with the bytes 11 22 33 44 in MEM. -/
def busyState : State := (put State.reset 0 [0x11, 0x22, 0x33, 0x44]).accept 0

/-! ## WellFormed (R92) -/

theorem test_wf_refuses_legal_words_as_reserved :
    (Instr.reserved 0x0).wf = false ∧ (Instr.reserved 0x1).wf = false ∧ (Instr.reserved 0x8).wf = false := by decide

theorem test_wf_accepts_illegal_words :
    (Instr.reserved 0x9).wf = true ∧ (Instr.reserved 0xFF).wf = true ∧ (Instr.reserved 0x100).wf = true ∧
    (Instr.reserved 0xFFFFFFFF).wf = true ∧ Instr.gen.wf = true := by decide

/-! ## Decode: the words of R91 (opcode in bits 7:0, MBZ in bits 31:8) and R92 -/

theorem test_decode_nop : decodeBytes [0x00, 0x00, 0x00, 0x00] = .ok (.nop, []) := by rfl

theorem test_decode_gen : decodeBytes [0x01, 0x00, 0x00, 0x00] = .ok (.gen, []) := by rfl

theorem test_decode_xor : decodeBytes [0x02, 0x00, 0x00, 0x00] = .ok (.xor, []) := by rfl

theorem test_decode_unpack : decodeBytes [0x03, 0x00, 0x00, 0x00] = .ok (.unpack, []) := by rfl

theorem test_decode_pack : decodeBytes [0x04, 0x00, 0x00, 0x00] = .ok (.pack, []) := by rfl

theorem test_decode_load : decodeBytes [0x05, 0x00, 0x00, 0x00] = .ok (.load, []) := by rfl

theorem test_decode_step : decodeBytes [0x06, 0x00, 0x00, 0x00] = .ok (.step, []) := by rfl

theorem test_decode_seedclr : decodeBytes [0x07, 0x00, 0x00, 0x00] = .ok (.seedclr, []) := by rfl

theorem test_decode_crypt : decodeBytes [0x08, 0x00, 0x00, 0x00, 0xAA] = .ok (.crypt, [0xAA]) := by rfl

theorem test_decode_reserved_opcode : decodeBytes [0x09, 0x00, 0x00, 0x00] = .ok (.reserved 0x09, []) := by rfl

/-- Vector N4: the opcode of GEN with MBZ not 0. -/
theorem test_decode_reserved_mbz : decodeBytes [0x01, 0x01, 0x00, 0x00] = .ok (.reserved 0x101, []) := by rfl

theorem test_decode_short : decodeBytes [0x01, 0x00, 0x00] = .error .shorterThanAWord := by rfl

theorem test_decode_table_word :
    decodeTableWord 32 0x00000008 = some .crypt ∧ decodeTableWord 32 0x80000008 = some (.reserved 0x80000008) ∧
    decodeTableWord 8 0x105 = some .load ∧ decodeTableWord 64 0x5 = none := by decide

/-! ## The step function (section 2.1 of the vectors) -/

theorem test_lfsr_F1_F2 :
    lfsrStep 0xD 0x9 4 = (true, 0x6) ∧ lfsrStep 0x1 0x9 4 = (true, 0x8) := by decide +kernel

theorem test_lfsr_F7_F8_F9 :
    lfsrStep 0xFF 0x9 4 = (true, 0x7) ∧ lfsrStep 0x1 0x1 1 = (true, 0x1) ∧ lfsrStep 0x1 0x0 1 = (true, 0x0) := by decide +kernel

theorem test_lfsr_F11_F12 :
    lfsrStep 0x155555555 0x100001000 33 = (true, 0x0AAAAAAAA) ∧
    lfsrStep 0x8000000000000001 0x8000000000000001 64 = (true, 0x4000000000000000) := by decide +kernel

/-! ## One step of each command -/

/-- Vector N1. -/
theorem test_nop_status : (stepped (State.reset.withFetchWord 32 0)).readReg .status = 0x00000002 := by decide

/-- Vector G14. -/
theorem test_gen_G14 :
    bytes (ran .gen (args alt 0 5 0)) 0 5 = [0x01, 0x00, 0x01, 0x00, 0x01] ∧
    (ran .gen (args alt 0 5 0)).state = 0xCAAAAAAA ∧
    (ran .gen (args alt 0 5 0)).readReg .status = 0x0000000A := by decide +kernel

/-- Vectors G1, G12, G13. -/
theorem test_gen_errors :
    (ran .gen State.reset).err = .seedLen ∧
    (ran .gen { alt with taps := 0x300001000 }).err = .tapRange ∧
    (ran .gen { alt with taps := 0x300001000, bad := true }).err = .seedChar := by decide

/-- Vector X1, the source's numeric example. -/
theorem test_xor_X1 : bytes (ran .xor xorState) 0x20 3 = [0xF0, 0xF0, 0xAB] := by decide

/-- Vectors X2 and X4: a key of one byte FF over 11 22 33. -/
theorem test_xor_X2_X4 :
    let s := put (put (key (args State.reset 0 3 0x20) 0x10 1) 0 [0x11, 0x22, 0x33]) 0x10 [0xFF]
    bytes (ran .xor { s with keychk := .clamp }) 0x20 3 = [0xEE, 0x22, 0x33] ∧ (ran .xor s).err = .keyLen := by decide

/-- Vector C1. -/
theorem test_unpack_C1 :
    bytes (ran .unpack (put (args State.reset 0 1 0x10) 0 [0xB4])) 0x10 8 =
      [0x01, 0x00, 0x01, 0x01, 0x00, 0x01, 0x00, 0x00] := by decide

/-- Vectors C9, C10, C12, C13. -/
theorem test_unpack_checks :
    (ran .unpack (args State.reset 0 1 0)).err = .overlap ∧
    (ran .unpack (args State.reset 0 0x20000000 0)).err = .range ∧
    (ran .unpack (args State.reset 0 512 64)).err = .range ∧
    firstError [(args State.reset 0 8 4032).rangeCheck [⟨0, 8⟩, ⟨4032, 64⟩]] = none := by decide

/-- Vectors C4, C5. -/
theorem test_pack_C4_C5 :
    bytes (ran .pack unitState) 0x10 1 = [0xA0] ∧
    bytes (ran .pack (put (args State.reset 0 9 0x10) 0 (List.replicate 9 0x01))) 0x10 2 = [0xFF, 0x80] := by decide

/-- Vector C6: the destination still holds EE. -/
theorem test_pack_C6 :
    let s := put (put (args State.reset 0 3 0x10) 0 [0x01, 0x00, 0x31]) 0x10 [0xEE]
    (ran .pack s).err = .badUnit ∧ (ran .pack s).readByte 0x10 = 0xEE := by decide

/-- Vector G6: seed "1011". -/
theorem test_load_G6 :
    (ran .load { four with seed := 0xD }).readReg .stateLo = 0x0000000D ∧
    (ran .load { four with seed := 0x1D }).readReg .stateLo = 0x0000000D := by decide

/-- Vectors G3 to G5. -/
theorem test_load_lengths :
    (ran .load { four with len := 0 }).err = .lenRange ∧ (ran .load { four with len := 65 }).err = .lenRange ∧
    (ran .load { four with len := 127 }).err = .lenRange := by decide

/-- Vector G7. -/
theorem test_step_G7 :
    (ran .step { four with state := 0xD }).state = 0x6 ∧ (ran .step { four with state := 0xD }).obit = true := by decide +kernel

/-- Vector G2: STEP needs no seed. -/
theorem test_step_G2 : (ran .step State.reset).err = .none ∧ (ran .step State.reset).state = 0 := by decide +kernel

/-- Vector N5: SEEDCLR after seed "10x". -/
theorem test_seedclr_N5 :
    let t := ran .seedclr { State.reset with seed := 0x1, cnt := 2, bad := true }
    t.readReg .seedctl = 0 ∧ t.seed = 0 ∧ t.readReg .status = 0x00000002 := by decide

/-- Vector Y1. -/
theorem test_crypt_Y1 :
    bytes (ran .crypt dataState) 0x10 3 = [0xFE, 0x00, 0xAB] ∧ (ran .crypt dataState).state = 0xE ∧
    (ran .crypt dataState).obit = false := by decide +kernel

/-- Vectors Y3 (in place) and Y4. -/
theorem test_crypt_Y3_Y4 :
    bytes (ran .crypt { dataState with addrD := 0 }) 0 3 = [0xFE, 0x00, 0xAB] ∧
    (ran .crypt { dataState with addrD := 1 }).err = .overlap := by decide +kernel

/-- Vectors N2 to N4. -/
theorem test_reserved_N2_N4 :
    (stepped (State.reset.withFetchWord 32 0x09)).readReg .status = 0x00000902 ∧
    (stepped (State.reset.withFetchWord 32 0xFF)).readReg .status = 0x00000902 ∧
    (stepped (State.reset.withFetchWord 32 0x101)).readReg .status = 0x00000902 := by decide

/-! ## The bus (section 2.8 of the vectors) and seed entry (section 2.2) -/

/-- Vector B4. -/
theorem test_bus_B4 :
    reads State.reset 0x002 .b4 = ⟨.buserr, some 0⟩ ∧ reads State.reset 0x000 .b1 = ⟨.buserr, some 0⟩ ∧
    reads State.reset 0x044 .b4 = ⟨.buserr, some 0⟩ ∧ reads State.reset 0x0FFFC .b4 = ⟨.buserr, some 0⟩ ∧
    reads State.reset 0x10001 .b2 = ⟨.buserr, some 0⟩ ∧ reads State.reset 0x11000 .b1 = ⟨.buserr, some 0⟩ ∧
    reads State.reset 0x10FFE .b4 = ⟨.buserr, some 0⟩ ∧
    State.reset.transact (.write 0x044 .b4 1) = (State.reset, ⟨.buserr, none⟩) := by decide

/-- Vector B5. -/
theorem test_bus_B5 :
    let s := put State.reset 0 [0x11, 0x22, 0x33, 0x44]
    reads s 0x10000 .b4 = ⟨.okay, some 0x44332211⟩ ∧ reads s 0x10002 .b2 = ⟨.okay, some 0x4433⟩ ∧
    reads s 0x10003 .b1 = ⟨.okay, some 0x44⟩ := by decide

/-- Vector B6. -/
theorem test_bus_B6 :
    bytes (afterBus State.reset (.write 0x10004 .b4 0xAABBCCDD)) 4 4 = [0xDD, 0xCC, 0xBB, 0xAA] := by decide

/-- Vectors B2, B3. -/
theorem test_ctrl_B2_B3 :
    (afterBus State.reset (.write 0x000 .b4 0x321)).readReg .ctrl = 0x221 ∧
    (afterBus State.reset (.write 0x000 .b4 0x021)).readReg .ctrl = 0x021 := by decide

/-- The halves of 64-bit registers (R12, R41 to R43): STATE of vector K1, SEED of vector E7, TAPS at reset. -/
theorem test_register_halves :
    let s := { alt with state := 0x1EBEBE1E1 }
    (reads s 0x024 .b4 = ⟨.okay, some 0xEBEBE1E1⟩ ∧ reads s 0x028 .b4 = ⟨.okay, some 0x1⟩) ∧
    (reads s 0x014 .b4 = ⟨.okay, some 0x55555555⟩ ∧ reads s 0x018 .b4 = ⟨.okay, some 0x1⟩) ∧
    (reads s 0x01C .b4 = ⟨.okay, some 0x1000⟩ ∧ reads s 0x020 .b4 = ⟨.okay, some 0x1⟩) := by decide

/-- R30, by the numbers written to CTRL: 0 accepts a short key, 1 refuses it and accepts a long one, 2 refuses that. -/
theorem test_keychk_numbers :
    let s := { xorState with lenB := 1 }
    (ran .xor (afterBus s (.write 0x000 .b4 0x021))).err = .none ∧
    (ran .xor (afterBus s (.write 0x000 .b4 0x121))).err = .keyLen ∧
    (ran .xor (afterBus { s with lenB := 4 } (.write 0x000 .b4 0x121))).err = .none ∧
    (ran .xor (afterBus { s with lenB := 4 } (.write 0x000 .b4 0x221))).err = .keyLen := by decide

/-- Vectors B7 to B9. -/
theorem test_busy_B7_B9 :
    busyState.readReg .status = 0x00000001 ∧
    afterBus busyState (.write 0x000 .b4 0x205) = { busyState with ovr := true } ∧
    reads busyState 0x10000 .b1 = ⟨.okay, some 0⟩ ∧
    afterBus busyState (.write 0x10000 .b1 0x55) = { busyState with ovr := true } ∧
    (afterBus busyState (.write 0x008 .b4 1)).pend = some 0 := by decide

/-- Vectors B10, B11. -/
theorem test_busy_B10_B11 :
    let t := ran .nop { busyState with ovr := true }
    t.readReg .status = 0x00000006 ∧ (afterBus t (.write 0x004 .b4 0x6)).readReg .status = 0 := by decide

/-- Vectors E1 to E3, from the state `seed "101"` leaves. -/
theorem test_seed_E1_E3 :
    let s := { State.reset with seed := 0x5, cnt := 3 }
    let e1 := afterBus s (.write 0x010 .b4 0x31)
    let e2 := afterBus e1 (.write 0x010 .b4 0x32)
    let e3 := afterBus e2 (.write 0x010 .b4 0x131)
    (e1.readReg .seedctl = 0x00000004 ∧ e1.seed = 0xD) ∧ (e2.readReg .seedctl = 0x00000104 ∧ e2.seed = 0xD) ∧
    e3.readReg .seedctl = 0x00000105 ∧ e3.seed = 0x1D := by decide

/-- Vectors E4, E5: bits past 64 are dropped and the count saturates. -/
theorem test_seed_E4_E5 :
    let s := { State.reset with seed := 0xFFFFFFFFFFFFFFFE, cnt := 127 }
    afterBus s (.write 0x010 .b4 0x31) = s ∧
    (afterBus { s with cnt := 64 } (.write 0x010 .b4 0x31)).seed = 0xFFFFFFFFFFFFFFFE ∧
    (afterBus { s with cnt := 64 } (.write 0x010 .b4 0x31)).cnt = 65 := by decide

/-- R242: reset while a command is pending abandons it. -/
theorem test_reset_abandons :
    (stepped { busyState with agenda := [.assertReset] }).pend = none ∧
    (stepped { busyState with agenda := [.assertReset] }).mem = [] := by decide

/-- X4: no transaction while reset is asserted. -/
theorem test_transaction_in_reset :
    step { State.reset with inReset := true, agenda := [.host (.read 0x004 .b4)] } = .fault .transactionInReset := by
  rfl

/-! ## Witnesses: for each statement with hypotheses, values that meet all of them together -/

/-- DecodeInvertsEncode. -/
theorem witness_wf : Instr.gen.wf = true ∧ (Instr.reserved 0x09).wf = true ∧ (Instr.reserved 0x100).wf = true := by decide

/-- IllegalWordsEndInBadCmd: the first and last illegal words, each way of being illegal, and the last legal word. -/
theorem witness_illegal_words :
    IllegalWord 0x09 ∧ IllegalWord 0xFF ∧ IllegalWord 0x100 ∧ IllegalWord 0xFFFFFFFF ∧ State.reset.pend = none ∧
    ¬ IllegalWord 0x08 ∧ ∃ t, exec (decodeWord 0x08) State.reset = .next t := by
  refine ⟨by decide, by decide, by decide, by decide, rfl, by decide, ran .crypt State.reset, rfl⟩

/-- EngineTurnRunsPendingCommand: a pending word with the engine next, one with no event to come, and the idle case. -/
theorem witness_engine_turn :
    (({ busyState with agenda := [.engine] } : State).agenda.head? = some .engine ∧ busyState.pend = some 0) ∧
    (busyState.agenda = [] ∧ busyState.pend = some 0) ∧ (State.reset.agenda = [] ∧ State.reset.pend = none) := by
  refine ⟨⟨rfl, rfl⟩, ⟨rfl, rfl⟩, rfl, rfl⟩

/-- HostTurnPerformsOneTransaction, TransactionDuringResetFaults. -/
theorem witness_host_turn :
    let s := { State.reset with agenda := [.host (.read 0x004 .b4)] }
    (s.agenda.head? = some (.host (.read 0x004 .b4)) ∧ s.inReset = false) ∧
    ({ s with inReset := true } : State).agenda.head? = some (.host (.read 0x004 .b4)) := by
  exact ⟨⟨rfl, rfl⟩, rfl⟩

/-- AssertedResetSetsResetValues (while a command is pending), ReleasedResetAcceptsTransactions. -/
theorem witness_reset_events :
    ({ busyState with agenda := [.assertReset] } : State).agenda.head? = some .assertReset ∧
    ({ State.reset with inReset := true, agenda := [.releaseReset] } : State).agenda.head? = some .releaseReset := by
  exact ⟨rfl, rfl⟩

/-- AfterResetGeneratorNeedsSeed: the block right after a reset that abandoned a command. -/
theorem witness_after_reset : ∃ t, t = busyState.assertReset.releaseReset := ⟨_, rfl⟩

/-- EveryStepKeepsInvariant: a pending command that writes MEM, a transaction, and reset. -/
theorem witness_invariant :
    (Invariant (dataState.accept 8) ∧ step (dataState.accept 8) = .next (stepped (dataState.accept 8))) ∧
    (let s := { busyState with agenda := [.host (.write 0x10000 .b1 1)] }
     Invariant s ∧ step s = .next (stepped s)) ∧
    (let s := { busyState with agenda := [.assertReset] }
     Invariant s ∧ step s = .next (stepped s)) := by
  refine ⟨⟨by decide, rfl⟩, ⟨by decide, rfl⟩, by decide, rfl⟩

/-- BusyWindowNeverChangesCommand: a GEN pending, and three transactions the host issues meanwhile. -/
theorem witness_busy_window :
    let trs := [Transaction.write 0x030 .b4 8, .read 0x004 .b4, .write 0x004 .b4 4]
    let s := { (args alt 0 4 0).accept 1 with agenda := trs.map Event.host }
    s.pend = some 1 ∧ s.inReset = false ∧ s.agenda = trs.map Event.host := by
  exact ⟨rfl, rfl, rfl⟩

/-- BusErrorExactly: the last register and the last window accesses, and accesses just outside. -/
theorem witness_accesses :
    RegisterAccess 0x00040 .b4 ∧ WindowAccess State.reset 0x10FFF .b1 ∧ WindowAccess State.reset 0x10FFE .b2 ∧
    WindowAccess State.reset 0x10FFC .b4 ∧
    (¬ RegisterAccess 0x00044 .b4 ∧ ¬ WindowAccess State.reset 0x00044 .b4) ∧
    (¬ RegisterAccess 0x00040 .b2 ∧ ¬ WindowAccess State.reset 0x00040 .b2) ∧
    (¬ RegisterAccess 0x11000 .b1 ∧ ¬ WindowAccess State.reset 0x11000 .b1) ∧
    (¬ RegisterAccess 0x10FFE .b4 ∧ ¬ WindowAccess State.reset 0x10FFE .b4) := by decide

/-- WindowReadIsLittleEndian, WindowWriteIsLittleEndian: the last access of each size. -/
theorem witness_window :
    State.reset.pend = none ∧ State.reset.memBytes ≤ 65536 ∧
    (4092 % Size.b4.bytes = 0 ∧ 4092 + Size.b4.bytes ≤ State.reset.memBytes) ∧
    (4094 % Size.b2.bytes = 0 ∧ 4094 + Size.b2.bytes ≤ State.reset.memBytes) ∧
    (4095 % Size.b1.bytes = 0 ∧ 4095 + Size.b1.bytes ≤ State.reset.memBytes) := by decide

/-- MixedWidthsSeeOneByteArray: the first and the last word of MEM, and the accesses next to each. -/
theorem witness_mixed_widths :
    State.reset.pend = none ∧ State.reset.memBytes ≤ 65536 ∧
    (0 % 4 = 0 ∧ 0 + 4 ≤ State.reset.memBytes ∧ 0 + 4 ≤ 4 ∧ 4 + Size.b4.bytes ≤ State.reset.memBytes) ∧
    (4092 % 4 = 0 ∧ 4092 + 4 ≤ State.reset.memBytes ∧ 4091 + Size.b1.bytes ≤ 4092) := by decide

/-- BusyWritesAreIgnored, BusyReadsAreFiltered and the busy clauses of the register statements. -/
theorem witness_busy :
    Invariant busyState ∧ busyState.pend ≠ none ∧ RegisterAccess 0x00008 .b4 ∧ (0x00008 : BitVec 17) ≠ 0x004 ∧
    WindowAccess busyState 0x10FFF .b1 ∧ ¬ (RegisterAccess 0x00044 .b4 ∨ WindowAccess busyState 0x00044 .b4) ∧
    0x10000 ≤ (0x1FFFF : BitVec 17).toNat := by decide

/-- CmdWriteIsAccepted, RegisterMapOffsets (its STATE clause), ControlRegistersReadBack, PlainRegistersReadBack,
ReadOnlyAndWriteOnlyRegisters. -/
theorem witness_idle :
    State.reset.pend = none ∧ Reg.addrD ∈ [Reg.seedLo, Reg.seedHi, Reg.addrD] ∧
    (∃ t, t = afterBus State.reset (regWrite .ctrl 0x321)) ∧ (∃ t, t = afterBus State.reset (regWrite .seedctl 0x17F)) ∧
    ((0xFFFFFFF9 : Word).getLsbD 1 = false ∧ (0xFFFFFFF9 : Word).getLsbD 2 = false) := by
  exact ⟨rfl, by decide, ⟨_, rfl⟩, ⟨_, rfl⟩, by decide, by decide⟩

/-- SeedCharacterEntry: both valid characters, and the codes next to them. -/
theorem witness_seed_characters :
    State.reset.pend = none ∧ busyState.pend ≠ none ∧
    ((0x30 : Word).toNat % 256 = 0x30 ∨ (0x30 : Word).toNat % 256 = 0x31) ∧
    ((0x131 : Word).toNat % 256 = 0x30 ∨ (0x131 : Word).toNat % 256 = 0x31) ∧
    ¬ ((0x2F : Word).toNat % 256 = 0x30 ∨ (0x2F : Word).toNat % 256 = 0x31) ∧
    ¬ ((0x32 : Word).toNat % 256 = 0x30 ∨ (0x32 : Word).toNat % 256 = 0x31) ∧
    ∃ t, t = afterBus State.reset (regWrite .seedchr 0x31) := by
  exact ⟨rfl, by decide, by decide, by decide, by decide, by decide, _, rfl⟩

/-- FailedCommandsArePrecise, CommandsKeepHostRegisters, WhichCommandsWriteWhat: a failing and a succeeding command. -/
theorem witness_commands :
    (exec .gen State.reset = .next (ran .gen State.reset) ∧ (ran .gen State.reset).err ≠ .none) ∧
    (exec .crypt dataState = .next (ran .crypt dataState) ∧ (ran .crypt dataState).err = .none) ∧
    (exec .nop State.reset = .next (ran .nop State.reset) ∧ Instr.nop ∉ [Instr.load, .step, .gen, .crypt] ∧
      Instr.nop ∉ [Instr.gen, .xor, .crypt, .unpack, .pack]) := by
  exact ⟨⟨rfl, by decide⟩, ⟨rfl, by decide +kernel⟩, rfl, by decide, by decide⟩

/-- ErrorCodesAndTheirCauses: each code is raised. -/
theorem witness_error_codes :
    (ran .gen State.reset).err = .seedLen ∧ (ran .gen { alt with bad := true }).err = .seedChar ∧
    (ran .step { alt with len := 0 }).err = .lenRange ∧ (ran .step { four with taps := 0x10 }).err = .tapRange ∧
    (ran .xor { xorState with lenB := 2 }).err = .keyLen ∧ (ran .xor { xorState with lenB := 4097 }).err = .range ∧
    (ran .pack (args State.reset 0 9 8)).err = .overlap ∧
    (ran .pack (put (args State.reset 0 3 0x10) 0 [0x01, 0x00, 0x31])).err = .badUnit ∧
    (ran (.reserved 0x09) State.reset).err = .badCmd := by decide

/-- R19: the machine's first state is safe. -/
theorem test_reset_is_safe : Safe State.reset := by
  exact ⟨rfl, rfl, fun r h => by simp [State.reset] at h⟩

/-- IllegalLengthFails and the LEN_RANGE clauses: 0, 65 and 127, and a command that ends so. -/
theorem witness_lengths :
    (∀ l ∈ [(0 : BitVec 7), 65, 127], ({ alt with len := l } : State).len.toNat = 0 ∨ 64 < ({ alt with len := l } : State).len.toNat) ∧
    exec .step { alt with len := 65 } = .next (ran .step { alt with len := 65 }) ∧
    (ran .step { alt with len := 65 }).err = .lenRange := by
  exact ⟨by decide, rfl, by decide⟩

/-- UnusableSeedFails and the seed clauses: at R = 1 and R = 64, a bad character, a seed one too short, and a command that ends so. -/
theorem witness_seed_errors :
    (LenLegal { alt with len := 1, bad := true } ∧ ({ alt with len := 1, bad := true } : State).bad = true) ∧
    (LenLegal { alt with len := 64, cnt := 63 } ∧ ({ alt with len := 64, cnt := 63 } : State).bad = false ∧
      ({ alt with len := 64, cnt := 63 } : State).cnt ≠ ({ alt with len := 64, cnt := 63 } : State).len) ∧
    exec .load State.reset = .next (ran .load State.reset) ∧ (ran .load State.reset).err = .seedLen ∧
    (ran .load { alt with bad := true }).err = .seedChar := by
  exact ⟨by decide, by decide, rfl, by decide, by decide⟩

/-- TapAboveLengthFails and the TAP_RANGE clauses: the tap just above R = 4, and tap 64 at R = 63. -/
theorem witness_taps :
    (LenLegal { four with taps := 0x10 } ∧ SeedUsable { four with taps := 0x10 } ∧
      ∃ j, ({ four with taps := 0x10 } : State).len.toNat ≤ j ∧ ({ four with taps := 0x10 } : State).taps.getLsbD j = true) ∧
    (let s := { four with len := 63, cnt := 63, taps := 0x8000000000000000 }
     LenLegal s ∧ SeedUsable s ∧ ∃ j, s.len.toNat ≤ j ∧ s.taps.getLsbD j = true) ∧
    exec .step { four with taps := 0x10 } = .next (ran .step { four with taps := 0x10 }) ∧
    (ran .step { four with taps := 0x10 }).err = .tapRange := by
  exact ⟨⟨by decide, by decide, 4, by decide, by decide⟩, ⟨by decide, by decide, 63, by decide, by decide⟩, rfl, by decide⟩

/-- RegionOutsideMemFails and the RANGE clauses: each command with a region ending one byte past MEM. -/
theorem witness_range :
    (GeneratorOk (args alt 0 1 4096) ∧ ¬ Inside (args alt 0 1 4096) (args alt 0 1 4096).d (args alt 0 1 4096).la) ∧
    (GeneratorOk (args alt 4096 1 0) ∧ ¬ CryptInside (args alt 4096 1 0)) ∧
    ¬ XorInside (key (args alt 0 1 0) 4096 1) ∧ ¬ UnpackInside (args alt 0 1 4089) ∧ ¬ PackInside (args alt 0 9 4095) := by
  decide

/-- IllegalOverlapFails and the OVERLAP clauses: each command with one shared byte. -/
theorem witness_overlap :
    (XorInside (key (args alt 0 4 3) 0x10 4) ∧ ¬ XorApart (key (args alt 0 4 3) 0x10 4)) ∧
    (XorInside (key (args alt 0 4 0) 1 4) ∧ ¬ XorApart (key (args alt 0 4 0) 1 4)) ∧
    (let s := args alt 0 4 3
     GeneratorOk s ∧ CryptInside s ∧ ¬ AlignedOrDisjoint s.d s.la s.a s.la) ∧
    (let s := args alt 15 1 8
     UnpackInside s ∧ Overlap s.d (8 * s.la) s.a s.la) ∧
    (let s := args alt 0 9 8
     PackInside s ∧ Overlap s.d ((s.la + 7) / 8) s.a s.la) := by
  exact ⟨by decide, by decide, ⟨by decide, by decide, by decide⟩, ⟨by decide, by decide⟩, by decide, by decide⟩

/-- XorTransforms, the KEY_LEN clauses: a key one byte short under policy 1, one byte long under policy 2. -/
theorem witness_key_policy :
    (let s := { xorState with keychk := .rejectShort, lenB := 2 }
     XorInside s ∧ XorApart s ∧ s.keychk = .rejectShort ∧ s.lb < s.la) ∧
    (let s := { xorState with lenB := 4 }
     XorInside s ∧ XorApart s ∧ s.keychk = .rejectUnequal ∧ s.lb ≠ s.la ∧
      exec .xor s = .next (ran .xor s) ∧ (ran .xor s).err = .keyLen) := by
  exact ⟨by decide, by decide, by decide, by decide, by decide, rfl, by decide⟩

/-- PackIsMsbFirst, the BAD_UNIT clause: vector C6. -/
theorem witness_bad_unit :
    let s := put (args State.reset 0 3 0x10) 0 [0x01, 0x00, 0x31]
    PackInside s ∧ ¬ Overlap s.d ((s.la + 7) / 8) s.a s.la ∧
    ∃ i < s.la, s.readByte (s.a + i) ≠ 0x00 ∧ s.readByte (s.a + i) ≠ 0x01 := by
  exact ⟨by decide, by decide, 2, by decide, by decide, by decide⟩

/-- LoadCopiesSeed, StepStepsState and SeedclrClearsSeed, at R = 1 and R = 64. -/
theorem witness_load_step :
    (∀ r ∈ [(1 : BitVec 7), 64], LoadOk { alt with len := r, cnt := r } ∧ LenLegal { alt with len := r }) ∧
    StepOk State.reset ∧ StepOk { alt with len := 1, taps := 1 } ∧ StepOk { alt with len := 64, taps := 0xFFFFFFFFFFFFFFFF } := by
  decide +kernel

/-- LfsrStepBitByBit, KeystreamRecurrence, StepInjectiveIffTapOne: R = 1 and R = 64, and two distinct states with one
successor where tap 1 is absent. -/
theorem witness_step_function :
    (1 ≤ 1 ∧ 1 ≤ 64) ∧ (1 ≤ 64 ∧ 64 ≤ 64) ∧ (lfsrStep 0x1 0x0 1).2 = (lfsrStep 0x0 0x0 1).2 ∧
    ∀ j, 1 ≤ j → (0x1 : DWord).getLsbD j = false ∧ (0x0 : DWord).getLsbD j = false := by
  refine ⟨by decide, by decide, by decide +kernel, fun j hj => ⟨by simp; omega, by simp⟩⟩

/-- GenWritesKeystream and GenIsDeterministic: no unit, and units up to the end of MEM. -/
theorem witness_gen :
    GenOk (args alt 0 0 0xFFFFFFFF) ∧ GenOk (args alt 0 5 4091) ∧ GenOk (args { alt with seed := 0x355555555 } 0 5 0) ∧
    (∀ j < 33, (0x355555555 : DWord).getLsbD j = alt.seed.getLsbD j) ∧
    exec .gen (args alt 0 5 4091) = .next (ran .gen (args alt 0 5 4091)) ∧
    exec .gen (args { alt with seed := 0x355555555 } 0 5 0) = .next (ran .gen (args { alt with seed := 0x355555555 } 0 5 0)) := by
  exact ⟨by decide, by decide, by decide, by decide, rfl, rfl⟩

/-- XorTransforms and UnitKeyChangesBitZeroOnly: an equal key, a shorter and a longer one, in place, and a key of units. -/
theorem witness_xor :
    XorOk xorState ∧ XorOk { xorState with keychk := .clamp, lenB := 1 } ∧ XorOk { xorState with keychk := .rejectShort, lenB := 4 } ∧
    XorOk { xorState with addrD := 0 } ∧
    (let s := put xorState 0x10 [0x01, 0x00, 0x01]
     XorOk s ∧ UnitsOnly s s.b (min s.la s.lb)) := by
  exact ⟨by decide, by decide, by decide, by decide, by decide, by decide⟩

/-- CryptXorsKeystream: disjoint, in place, and no byte. -/
theorem witness_crypt : CryptOk dataState ∧ CryptOk { dataState with addrD := 0 } ∧ CryptOk (args four 0 0 5) := by decide

/-- UnpackIsMsbFirst and PackIsMsbFirst, up to the end of MEM. -/
theorem witness_conversion :
    UnpackOk (args State.reset 0 8 4032) ∧ UnpackOk (args State.reset 0 0 0x7FFFFFFF) ∧ PackOk unitState ∧
    PackOk (put (args State.reset 0 1 4095) 0 [0x01]) ∧ PackOk (args State.reset 0 0 0x7FFFFFFF) := by decide

/-- XorTwiceRestoresData: vector X1 and back, to 0x30, and the same with a key of one byte. -/
theorem witness_xor_twice :
    ∀ s ∈ [xorState, { xorState with keychk := .clamp, lenB := 1 }],
      ∃ t r u, exec .xor s = .next t ∧ t.err = .none ∧
        (∀ i < min s.la s.lb, t.readByte (s.b + i) = s.readByte (s.b + i)) ∧
        r = { t with addrA := s.addrD, addrD := 0x30 } ∧ exec .xor r = .next u ∧ u.err = .none := by
  intro s hs
  refine ⟨ran .xor s, { ran .xor s with addrA := s.addrD, addrD := 0x30 },
    ran .xor { ran .xor s with addrA := s.addrD, addrD := 0x30 }, ?_⟩
  simp only [List.mem_cons, List.not_mem_nil, or_false] at hs
  rcases hs with rfl | rfl <;> exact ⟨rfl, by decide, by decide, rfl, rfl, by decide⟩

/-- CryptEqualsGenThenXor: the scratch region at 0x40. -/
theorem witness_crypt_gen_xor :
    let s := dataState
    let t := ran .gen { s with addrD := 0x40 }
    let r := { t with addrB := 0x40, lenB := s.lenA, addrD := s.addrD }
    exec .crypt s = .next (ran .crypt s) ∧ (ran .crypt s).err = .none ∧
    exec .gen { s with addrD := 0x40 } = .next t ∧ t.err = .none ∧
    ¬ Overlap (0x40 : Word).toNat s.la s.a s.la ∧ ¬ Overlap (0x40 : Word).toNat s.la s.d s.la ∧
    exec .xor r = .next (ran .xor r) ∧ (ran .xor r).err = .none := by
  exact ⟨rfl, by decide +kernel, rfl, by decide +kernel, by decide, by decide, rfl, by decide +kernel⟩

/-- CryptTwiceRestoresData: vectors Y1 and Y2. -/
theorem witness_crypt_twice :
    let s := dataState
    let t := ran .crypt s
    let r := { t with addrA := s.addrD, addrD := 0x20 }
    exec .crypt s = .next t ∧ t.err = .none ∧ exec .crypt r = .next (ran .crypt r) ∧ (ran .crypt r).err = .none := by
  exact ⟨rfl, by decide +kernel, rfl, by decide +kernel⟩

/-- ConversionRoundTrips, first clause: vectors C2 and C3. -/
theorem witness_unpack_pack :
    let s := dataState
    let t := ran .unpack s
    let r := { t with addrA := s.addrD, lenA := 24, addrD := 0x40 }
    exec .unpack s = .next t ∧ t.err = .none ∧ (24 : Word).toNat = 8 * s.la ∧ PackInside r ∧
    ¬ Overlap r.d ((r.la + 7) / 8) r.a r.la := by
  exact ⟨rfl, by decide +kernel, by decide, by decide +kernel, by decide +kernel⟩

/-- ConversionRoundTrips, second clause: three units, padded to eight. -/
theorem witness_pack_unpack :
    let s := unitState
    let t := ran .pack s
    let r := { t with addrA := s.addrD, lenA := 1, addrD := 0x40 }
    exec .pack s = .next t ∧ t.err = .none ∧ (1 : Word).toNat = (s.la + 7) / 8 ∧ UnpackOk r := by
  exact ⟨rfl, by decide +kernel, by decide, by decide +kernel⟩

end Sys2Proof.Tests
end

section
/-! PROOFS. The registers: an access at a register's own offset, the bits of STATUS, read-only registers, and what
every register reads right after reset (R24 to R31, R47). -/

namespace Sys2Proof.Machine

open Sys2Proof.Safety

/-! ## Accesses to one register (R24, R61) -/

/-- A 4-byte read at a register's offset answers what the register reads as (R24). -/
theorem transact_read_reg (s : State) (r : Reg) :
    s.transact (.read r.offset .b4) = (s, ⟨.okay, some (s.readReg r)⟩) := by
  simp only [State.transact, target_reg_offset, State.busRead]

/-- A 4-byte write at a register's offset is the bus write of that register, and gets OKAY. -/
theorem transact_regWrite (s : State) (r : Reg) (v : Word) :
    s.transact (regWrite r v) = (s.busWrite (.reg r) .b4 v, ⟨.okay, none⟩) := by
  simp only [State.transact, target_reg_offset]

/-- BUSY = 0 exactly when nothing is pending (R46). -/
theorem busy_eq_false_iff (s : State) : s.busy = false ↔ s.pend = none :=
  Option.isSome_eq_false_iff.trans Option.isNone_iff_eq_none

/-- BUSY = 1 exactly when a word is pending (R46). -/
theorem busy_eq_true_iff (s : State) : s.busy = true ↔ s.pend ≠ none := Option.isSome_iff_ne_none

/-- While BUSY = 0 a write reaches the register written, STATUS as any other. -/
theorem busWrite_idle {s : State} (hb : s.busy = false) (r : Reg) (z : Size) (v : Word) :
    s.busWrite (.reg r) z v = s.writeReg r v := by
  cases r <;> simp [State.busWrite, State.writeReg, hb]

/-- While BUSY = 0 a write to a read-only register changes nothing (R26). -/
theorem writeReg_readOnly (s : State) {r : Reg} (hr : r ∈ [Reg.stateLo, Reg.stateHi, Reg.memsize]) (v : Word) :
    s.writeReg r v = s := by
  simp only [List.mem_cons, List.not_mem_nil, or_false] at hr
  rcases hr with rfl | rfl | rfl <;> rfl

/-- A write-only register reads 0 (R27). -/
theorem readReg_writeOnly (s : State) {r : Reg} (hr : r ∈ [Reg.cmd, Reg.seedchr]) : s.readReg r = 0 := by
  simp only [List.mem_cons, List.not_mem_nil, or_false] at hr
  rcases hr with rfl | rfl <;> rfl

/-! ## STATUS (R31) -/

/-- A STATUS write, with the written bit of each flag deciding whether the flag is cleared. -/
theorem writeStatus_eq_ite (s : State) (v : Word) :
    s.writeStatus v =
      { s with
          done := if v.getLsbD 1 then false else s.done
          ovr := if v.getLsbD 2 then false else s.ovr } := by
  have clear (f b : Bool) : (f && !b) = if b then false else f := by cases b <;> simp
  simp only [State.writeStatus, clear]

/-- A STATUS write that asks for nothing to be cleared changes nothing (R26). -/
theorem writeStatus_eq_self (s : State) {v : Word} (h1 : v.getLsbD 1 = false) (h2 : v.getLsbD 2 = false) :
    s.writeStatus v = s := by
  rw [writeStatus_eq_ite, h1, h2]
  rfl

/-- A flag shifted to bit k of a word has its bit there and no other. -/
theorem getLsbD_flagWord_shiftLeft (f : Bool) (k : Nat) {j : Nat} (hj : j < 32) :
    (flagWord f <<< k).getLsbD j = (decide (j = k) && f) := by
  cases f
  · simp [flagWord]
  · by_cases hk : j = k
    · simp [flagWord, hk ▸ hj, hk]
    · simp [flagWord, hk, hj]
      omega

/-- The numbers of the error codes fit the eight bits of STATUS.ERR (R36, R210). -/
theorem getLsbD_errCode_toWord_of_le (c : ErrCode) {j : Nat} (h : 8 ≤ j) : c.toWord.getLsbD j = false := by
  have hlt : c.toWord.toNat < 2 ^ 8 := by cases c <;> decide
  exact Nat.testBit_lt_two_pow (hlt.trans_le (Nat.pow_le_pow_right (by decide) h))

/-- An error code shifted to its place in STATUS stands in bits 15:8 (R31). -/
theorem getLsbD_errCode_toWord_shiftLeft (c : ErrCode) {j : Nat} (hj : j < 32) :
    (c.toWord <<< 8).getLsbD j = if 8 ≤ j ∧ j < 16 then c.toWord.getLsbD (j - 8) else false := by
  rw [BitVec.getLsbD_shiftLeft]
  split_ifs with hin
  · simp [hj, hin.1]
  · by_cases h8 : 8 ≤ j
    · simp [getLsbD_errCode_toWord_of_le c (show 8 ≤ j - 8 by omega)]
    · simp [show j < 8 by omega]

/-- Bit by bit, what STATUS reads as (R31). -/
theorem getLsbD_statusWord (s : State) {j : Nat} (hj : j < 32) :
    s.statusWord.getLsbD j =
      if j = 0 then s.busy else if j = 1 then s.done else if j = 2 then s.ovr
      else if j = 3 then s.obitRead
      else if 8 ≤ j ∧ j < 16 then s.err.toWord.getLsbD (j - 8) else false := by
  have hbusy : (flagWord s.busy).getLsbD j = (decide (j = 0) && s.busy) := by
    simpa using getLsbD_flagWord_shiftLeft s.busy 0 hj
  simp only [State.statusWord, BitVec.getLsbD_or, hbusy, getLsbD_flagWord_shiftLeft _ _ hj,
    getLsbD_errCode_toWord_shiftLeft _ hj]
  have hplace : j = 0 ∨ j = 1 ∨ j = 2 ∨ j = 3 ∨ (j ≠ 0 ∧ j ≠ 1 ∧ j ≠ 2 ∧ j ≠ 3) := by omega
  rcases hplace with rfl | rfl | rfl | rfl | ⟨h0, h1, h2, h3⟩
  · simp
  · simp
  · simp
  · simp
  · simp [h0, h1, h2, h3]

/-! ## Reset (R47, R241) -/

/-- While no byte is written since reset, every byte of MEM is its free draw (R241). -/
theorem readByte_of_mem_eq_nil {s : State} (h : s.mem = []) (x : Nat) :
    s.readByte x = Config.memDraw s.draw x := by
  simp only [State.readByte, h, Memory.find, Option.getD_none]

/-- The reset column of R24, as the block reads with its parameter at the default. -/
theorem readReg_reset (r : Reg) : State.reset.readReg r = resetValue State.reset.memBytes r := by
  cases r <;> rfl

/-- The assertion of reset leaves in every register but MEMSIZE what the machine's first state holds. -/
theorem readReg_assertReset_of_ne_memsize (s : State) {r : Reg} (hr : r ≠ .memsize) :
    s.assertReset.readReg r = State.reset.readReg r := by
  cases r with
  | memsize => exact absurd rfl hr
  | _ => rfl

/-- The reset column names the parameter MEM_BYTES at MEMSIZE alone (R24). -/
theorem resetValue_of_ne_memsize (m n : Nat) {r : Reg} (hr : r ≠ .memsize) : resetValue m r = resetValue n r := by
  cases r with
  | memsize => exact absurd rfl hr
  | _ => rfl

/-- The assertion of reset sets every register to the reset column; MEMSIZE keeps the parameter (R45, R47). -/
theorem readReg_assertReset (s : State) (r : Reg) : s.assertReset.readReg r = resetValue s.memBytes r := by
  by_cases hr : r = .memsize
  · subst hr
    rfl
  · rw [readReg_assertReset_of_ne_memsize s hr, readReg_reset]
    exact resetValue_of_ne_memsize _ _ hr

/-- The release of reset leaves every register reading as before. -/
theorem readReg_releaseReset (s : State) (r : Reg) : s.releaseReset.readReg r = s.readReg r := by
  cases r <;> rfl

/-! ## The statements -/

/-- Settles O26: a write to STATE_LO, STATE_HI or MEMSIZE does nothing, and only the busy filter sets OVR for it; a
STATUS write with bits 1 and 2 clear clears nothing; CMD and SEEDCHR read 0. -/
theorem readOnlyAndWriteOnlyRegisters : Obligations.ReadOnlyAndWriteOnlyRegisters := by
  intro s v
  refine ⟨fun r hr => ⟨fun hidle => ?_, fun hbusy => ?_⟩, fun h1 h2 => ?_, fun r hr => ?_⟩
  · rw [transact_regWrite, busWrite_idle ((busy_eq_false_iff s).mpr hidle), writeReg_readOnly s hr]
  · have hstatus : Target.reg r ≠ .reg .status := by rintro ⟨⟩; simp at hr
    rw [transact_regWrite, busWrite_busy ((busy_eq_true_iff s).mpr hbusy) hstatus, State.overrun]
  · rw [transact_regWrite, busWrite_status, writeStatus_eq_self s h1 h2]
  · rw [transact_read_reg, readReg_writeOnly s hr]

/-- Settles O28: the bits of STATUS as its word is put together, and a STATUS write, which the busy filter lets pass. -/
theorem statusBitsAndWrites : Obligations.StatusBitsAndWrites := by
  refine ⟨fun s j hj => getLsbD_statusWord s hj, fun s v => ?_, readReg_reset .status⟩
  rw [← writeStatus_eq_ite]
  exact transact_regWrite s .status v

/-- Settles O10: assertion of reset sets the registers and draws MEM anew, and release changes neither. -/
theorem resetRegisterValues : Obligations.ResetRegisterValues := by
  refine ⟨fun s => ⟨fun r => ?_, ?_, readByte_of_mem_eq_nil ?_⟩, readReg_reset, rfl, rfl, rfl,
    readByte_of_mem_eq_nil rfl⟩
  · rw [readReg_releaseReset, readReg_assertReset]
  · simp [State.reset]
  · simp [State.reset]

end Sys2Proof.Machine
end

section
/-! PROOFS. The MEM window: what an access inside MEM reaches, the bits of a read, and reads after a write of another
width (R62, R64, R65). -/

namespace Sys2Proof.Machine

open Sys2Proof.Safety

/-! ## Accesses to the window (R62) -/

/-- A size is at least one byte (R60). -/
theorem Size.bytes_pos (z : Size) : 0 < z.bytes := by cases z <;> decide

/-- The offset of MEM byte k, for every k the largest MEM has (R9). -/
theorem toNat_memOffset {k : Nat} (hk : k < 65536) : (memOffset k).toNat = 0x10000 + k := by
  simp only [memOffset, BitVec.toNat_ofNat]
  omega

/-- An access inside MEM reaches the window exactly when it is aligned (R62, R63). -/
theorem target_memOffset {s : State} {k : Nat} {z : Size} (hmax : s.memBytes ≤ 65536)
    (hin : k + z.bytes ≤ s.memBytes) :
    s.target (memOffset k) z = if k % z.bytes = 0 then some (.window k) else none := by
  have hpos := z.bytes_pos
  have hoff := toNat_memOffset (k := k) (by omega)
  rw [State.target, if_neg (by omega), if_neg (by omega), hoff, Nat.add_sub_cancel_left]
  exact if_congr (and_iff_left hin) rfl rfl

/-- The response to a read inside MEM while BUSY = 0: the bytes of MEM when the access is aligned, else BUSERR. -/
theorem transact_read_window {s : State} {k : Nat} {z : Size} (hidle : s.pend = none) (hmax : s.memBytes ≤ 65536)
    (hin : k + z.bytes ≤ s.memBytes) :
    (s.transact (.read (memOffset k) z)).2 =
      if k % z.bytes = 0 then ⟨.okay, some (s.memRead k z.bytes)⟩ else ⟨.buserr, some 0⟩ := by
  have hb := (busy_eq_false_iff s).mpr hidle
  simp only [State.transact, target_memOffset hmax hin]
  split_ifs
  · simp [State.busRead, hb]
  · rfl

/-- An aligned write inside MEM while BUSY = 0 writes its bytes and gets OKAY. -/
theorem transact_write_window {s : State} {k : Nat} {z : Size} (v : Word) (hidle : s.pend = none)
    (hmax : s.memBytes ≤ 65536) (halign : k % z.bytes = 0) (hin : k + z.bytes ≤ s.memBytes) :
    s.transact (.write (memOffset k) z v) = (s.memWrite k z.bytes v, ⟨.okay, none⟩) := by
  have hb := (busy_eq_false_iff s).mpr hidle
  simp [State.transact, target_memOffset hmax hin, halign, State.busWrite, hb]

/-- A bus write keeps PEND and the parameter MEM_BYTES. -/
theorem memWrite_pend_memBytes (s : State) (k n : Nat) (v : Word) :
    (s.memWrite k n v).pend = s.pend ∧ (s.memWrite k n v).memBytes = s.memBytes := by
  rw [memWrite_eq]
  exact ⟨rfl, rfl⟩

/-! ## The data of a read (R64) -/

/-- Byte i of the data, put in its place in the word, has bits 8i to 8i+7 and no other. -/
theorem getLsbD_setWidth_shiftLeft_byte (b : Byte) (i : Nat) {j : Nat} (hj : j < 32) :
    (b.setWidth 32 <<< (8 * i)).getLsbD j = (decide (j / 8 = i) && b.getLsbD (j % 8)) := by
  simp only [BitVec.getLsbD_shiftLeft, BitVec.getLsbD_setWidth, hj, decide_true, Bool.true_and]
  by_cases hplace : j / 8 = i
  · subst hplace
    simp [show j - 8 * (j / 8) = j % 8 by omega, show ¬ j < 8 * (j / 8) by omega, show j % 8 < 32 by omega]
  · by_cases hlow : j < 8 * i
    · simp [hplace, hlow]
    · simp [hplace, BitVec.getLsbD_of_ge b (j - 8 * i) (by omega)]

/-- Bit by bit, the data of a read: bit j%8 of byte j/8, and 0 above the bytes read (R64). -/
theorem getLsbD_memRead (s : State) (k n : Nat) {j : Nat} (hj : j < 32) :
    (s.memRead k n).getLsbD j = (decide (j / 8 < n) && (s.readByte (k + j / 8)).getLsbD (j % 8)) := by
  refine forUp_invariant
    (fun i (v : Word) => v.getLsbD j = (decide (j / 8 < i) && (s.readByte (k + j / 8)).getLsbD (j % 8))) n ?_ ?_
  · simp
  · intro i v _ ih
    rw [BitVec.getLsbD_or, ih, getLsbD_setWidth_shiftLeft_byte _ _ hj]
    by_cases hplace : j / 8 = i
    · simp [hplace]
    · simp [hplace, show j / 8 < i + 1 ↔ j / 8 < i by omega]

/-- A read depends on no byte but those it reads. -/
theorem memRead_congr {s t : State} {k n : Nat} (h : ∀ i < n, t.readByte (k + i) = s.readByte (k + i)) :
    t.memRead k n = s.memRead k n := by
  refine BitVec.eq_of_getLsbD_eq fun j hj => ?_
  rw [getLsbD_memRead t k n hj, getLsbD_memRead s k n hj]
  by_cases hread : j / 8 < n
  · rw [h _ hread]
  · simp [hread]

/-! ## Reads after a write (R65) -/

/-- A read of n bytes inside a write, from its byte i on, returns those bytes of the word written (R64, R65). -/
theorem memRead_memWrite_inside (s : State) (k m : Nat) (v : Word) {i n : Nat} (h : i + n ≤ m) :
    (s.memWrite k m v).memRead (k + i) n = (v.extractLsb' (8 * i) (8 * n)).setWidth 32 := by
  refine BitVec.eq_of_getLsbD_eq fun j hj => ?_
  rw [getLsbD_memRead _ _ _ hj, BitVec.getLsbD_setWidth, BitVec.getLsbD_extractLsb']
  by_cases hread : j / 8 < n
  · have hbyte : (s.memWrite k m v).readByte (k + i + j / 8) = (v >>> (8 * (i + j / 8))).setWidth 8 := by
      rw [readByte_memWrite, if_pos (by omega), Nat.add_assoc, Nat.add_sub_cancel_left]
    have hbit : 8 * (i + j / 8) + j % 8 = 8 * i + j := by omega
    rw [hbyte, BitVec.getLsbD_setWidth, BitVec.getLsbD_ushiftRight, hbit]
    simp [hread, hj, show j < 8 * n by omega, show j % 8 < 8 by omega]
  · simp [hread, show ¬ j < 8 * n by omega]

/-- A read that shares no byte with a write answers as before it (R65). -/
theorem memRead_memWrite_outside (s : State) (k m : Nat) (v : Word) {x n : Nat} (h : x + n ≤ k ∨ k + m ≤ x) :
    (s.memWrite k m v).memRead x n = s.memRead x n := by
  refine memRead_congr fun i hi => ?_
  rw [readByte_memWrite, if_neg (by omega)]

/-! ## The statement -/

/-- Settles O20: the write leaves a state whose reads inside the four bytes give the word's own bytes, and whose reads
outside them, aligned or not, are answered as before. -/
theorem mixedWidthsSeeOneByteArray : Obligations.MixedWidthsSeeOneByteArray := by
  intro s k v hidle hmax halign hin
  have hwrite : afterBus s (.write (memOffset k) .b4 v) = s.memWrite k 4 v :=
    congrArg Prod.fst (transact_write_window (z := .b4) v hidle hmax halign hin)
  obtain ⟨hpend, hbytes⟩ := memWrite_pend_memBytes s k 4 v
  have hread {x : Nat} {z : Size} (hx : x + z.bytes ≤ s.memBytes) :=
    transact_read_window (k := x) (z := z) (hpend.trans hidle) (hbytes.trans_le hmax) (hx.trans_eq hbytes.symm)
  have hinside {i : Nat} (z : Size) (hi : i + z.bytes ≤ 4) (ha : (k + i) % z.bytes = 0) :
      ((s.memWrite k 4 v).transact (.read (memOffset (k + i)) z)).2.data =
        some ((v.extractLsb' (8 * i) (8 * z.bytes)).setWidth 32) := by
    rw [hread (by omega), if_pos ha, memRead_memWrite_inside s k 4 v hi]
  rw [hwrite]
  refine ⟨fun j hj => hinside .b1 hj (Nat.mod_one _), fun j hj => ?_, memWrite_eq s k 4 v, fun x z hout hx => ?_⟩
  · rw [show 16 * j = 8 * (2 * j) by omega]
    exact hinside .b2 (show 2 * j + 2 ≤ 4 by omega) (show (k + 2 * j) % 2 = 0 by omega)
  · rw [hread hx, transact_read_window hidle hmax hx, memRead_memWrite_outside s k 4 v hout]

end Sys2Proof.Machine
end

section
/-! PROOFS. The decoder and the encoder as inverses on well-formed commands, and which words end in BAD_CMD (R91, R92). -/

namespace Sys2Proof

open Sys2Proof.Safety

/-! ## Words and commands (R91, R92) -/

/-- The statements' illegal word is a word above the last match value. -/
theorem illegalWord_iff_above (w : Word) : IllegalWord w ↔ 8 < w.toNat := by
  simp only [IllegalWord]
  omega

/-- What the decoder answers is a well-formed command: a reserved one carries an illegal word only. -/
theorem wf_decodeWord (w : Word) : (decodeWord w).wf = true := by
  rcases decodeWord_cases w with
    ⟨-, h⟩ | ⟨-, h⟩ | ⟨-, h⟩ | ⟨-, h⟩ | ⟨-, h⟩ | ⟨-, h⟩ | ⟨-, h⟩ | ⟨-, h⟩ | ⟨-, h⟩ | ⟨habove, h⟩ <;>
    rw [h, Instr.wf]
  exact (illegalWord_iff w).mpr habove

/-- Every word is the encoding of the command it decodes to. -/
theorem encode_decodeWord (w : Word) : encode (decodeWord w) = w := by
  rcases decodeWord_cases w with
    ⟨rfl, h⟩ | ⟨rfl, h⟩ | ⟨rfl, h⟩ | ⟨rfl, h⟩ | ⟨rfl, h⟩ | ⟨rfl, h⟩ | ⟨rfl, h⟩ | ⟨rfl, h⟩ | ⟨rfl, h⟩ | ⟨-, h⟩ <;>
    rw [h] <;> rfl

/-- Every well-formed command is read back from its word. -/
theorem decodeWord_encode {i : Instr} (hwf : i.wf = true) : decodeWord (encode i) = i := by
  cases i with
  | reserved w => exact decodeWord_above w ((illegalWord_iff w).mp hwf)
  | _ => rfl

/-- A word decodes to a well-formed command exactly when it is that command's word. -/
theorem decodeWord_eq_iff {i : Instr} (hwf : i.wf = true) (w : Word) : decodeWord w = i ↔ w = encode i := by
  constructor
  · rintro rfl
    exact (encode_decodeWord w).symm
  · rintro rfl
    exact decodeWord_encode hwf

/-- A word that decodes to a reserved command is illegal. -/
theorem illegalWord_of_decodeWord_eq_reserved {w v : Word} (h : decodeWord w = .reserved v) : IllegalWord w := by
  have hv : v = w := by simpa only [h, encode] using encode_decodeWord w
  have hwf : illegalWord v = true := by simpa only [h, Instr.wf] using wf_decodeWord w
  exact (illegalWord_iff_above w).mpr (hv ▸ (illegalWord_iff v).mp hwf)

/-- An illegal word decodes to the reserved command that carries it. -/
theorem decodeWord_of_illegalWord {w : Word} (h : IllegalWord w) : decodeWord w = .reserved w :=
  decodeWord_above w ((illegalWord_iff_above w).mp h)

end Sys2Proof

namespace Sys2Proof.Machine

open Sys2Proof.Safety

/-! ## Accepting a word, and BAD_CMD (R92, R121) -/

/-- While nothing is pending a CMD write is accepted, whatever the word (R121). -/
theorem afterBus_regWrite_cmd {s : State} (hidle : s.pend = none) (w : Word) :
    afterBus s (regWrite .cmd w) = s.accept w := by
  rw [afterBus, transact_regWrite, busWrite_idle ((busy_eq_false_iff s).mpr hidle), State.writeReg]

/-- A reserved command completes with BAD_CMD and does nothing else (R92). -/
theorem exec_reserved (w : Word) (s : State) : exec (.reserved w) s = .next (s.complete .badCmd) := by
  rw [exec_eq_command]
  exact command_error rfl

/-- Only a reserved command has a check that fails with BAD_CMD. -/
theorem eq_reserved_of_mem_checksOf {i : Instr} {s : State} {ok : Bool} (h : (ok, .badCmd) ∈ checksOf s i) :
    ∃ w, i = .reserved w := by
  cases i with
  | reserved w => exact ⟨w, rfl⟩
  | _ =>
    simp [checksOf, State.lenCheck, State.seedCharCheck, State.seedLenCheck, State.tapCheck, State.rangeCheck,
      overlapCheck, State.keyCheck, State.unitCheck] at h

/-- Only a reserved command ends in BAD_CMD. -/
theorem eq_reserved_of_err_badCmd {i : Instr} {s t : State} (h : exec i s = .next t) (herr : t.err = .badCmd) :
    ∃ w, i = .reserved w := by
  rw [exec_eq_command] at h
  rcases command_cases h with ⟨code, hfail, rfl⟩ | ⟨-, rfl⟩
  · have hcode : code = .badCmd := by simpa using herr
    exact eq_reserved_of_mem_checksOf (firstError_mem (hcode ▸ hfail))
  · simp at herr

/-! ## The statements -/

/-- Settles O3: each command is well formed, so its own word and no other decodes to it; a word decodes to a reserved
command exactly when it is illegal. -/
theorem eachCommandHasOneWord : Obligations.EachCommandHasOneWord := by
  intro w
  have one {i : Instr} (hwf : i.wf = true) := decodeWord_eq_iff hwf w
  exact ⟨one rfl, one rfl, one rfl, one rfl, one rfl, one rfl, one rfl, one rfl, one rfl,
    illegalWord_of_decodeWord_eq_reserved, decodeWord_of_illegalWord⟩

/-- Settles O5: the CMD write accepts the word, the reserved command's one check fails with BAD_CMD, and no check of a
command with a legal word reports that code. -/
theorem illegalWordsEndInBadCmd : Obligations.IllegalWordsEndInBadCmd := by
  refine ⟨fun w hillegal => ⟨decodeWord_of_illegalWord hillegal, fun s => ⟨fun hidle => ?_, exec_reserved w s⟩⟩, rfl,
    fun w s t hlegal hexec herr => ?_⟩
  · rw [afterBus_regWrite_cmd hidle]
    exact ⟨rfl, rfl⟩
  · obtain ⟨v, hv⟩ := eq_reserved_of_err_badCmd hexec herr
    exact hlegal (illegalWord_of_decodeWord_eq_reserved hv)

end Sys2Proof.Machine
end

section
/-! PROOFS. What holds of every command: which check decides its outcome, a failing command's frame, the errors of LEN,
of the seed and of the regions, NOP, SEEDCLR and the CMD write (R121 to R130). -/

namespace Sys2Proof.Machine

open Sys2Proof.Safety

/-! ## The code of each check (R125) -/

@[simp] theorem lenCheck_code (s : State) : s.lenCheck.2 = .lenRange := rfl

@[simp] theorem seedCharCheck_code (s : State) : s.seedCharCheck.2 = .seedChar := rfl

@[simp] theorem seedLenCheck_code (s : State) : s.seedLenCheck.2 = .seedLen := rfl

@[simp] theorem tapCheck_code (s : State) : s.tapCheck.2 = .tapRange := rfl

@[simp] theorem rangeCheck_code (s : State) (rs : List Region) : (s.rangeCheck rs).2 = .range := rfl

@[simp] theorem overlapCheck_code (b : Bool) : (overlapCheck b).2 = .overlap := rfl

@[simp] theorem keyCheck_code (s : State) : s.keyCheck.2 = .keyLen := rfl

@[simp] theorem unitCheck_code (s : State) (r : Region) : (s.unitCheck r).2 = .badUnit := rfl

/-! ## Which check decides (R123, R125) -/

/-- A check that passes leaves the decision to the checks after it. -/
theorem firstError_cons_of_pass {c : Check} (hpass : c.1 = true) (cs : List Check) :
    firstError (c :: cs) = firstError cs := if_pos hpass

/-- A check that fails decides, whatever comes after it. -/
theorem firstError_cons_of_fail {c : Check} (hfail : ¬ c.1 = true) (cs : List Check) :
    firstError (c :: cs) = some c.2 := if_neg hfail

/-- Where no later check reports the first check's code, that code is reported exactly when the first check fails. -/
theorem firstError_cons_eq_code_iff {c : Check} {cs : List Check} (hcs : ∀ d ∈ cs, d.2 ≠ c.2) :
    firstError (c :: cs) = some c.2 ↔ ¬ c.1 = true := by
  refine ⟨fun herr hpass => ?_, fun hfail => firstError_cons_of_fail hfail cs⟩
  rw [firstError_cons_of_pass hpass] at herr
  exact hcs _ (firstError_mem herr) rfl

/-- A command ends in an error exactly when its checks report that error: its success writes ERR = 0. -/
theorem exec_eq_complete_iff (i : Instr) (s : State) {code : ErrCode} (hcode : code ≠ .none) :
    exec i s = .next (s.complete code) ↔ firstError (checksOf s i) = some code := by
  rw [exec_eq_command]
  refine ⟨fun h => ?_, command_error⟩
  rcases command_cases h with ⟨c, hfail, heq⟩ | ⟨-, heq⟩
  · have hc : code = c := by simpa using congrArg State.err heq
    rw [hfail, hc]
  · exact absurd (by simpa using congrArg State.err heq) hcode

/-! ## LEN, the seed and the taps (R126, R143, R144) -/

/-- No legal length is 0 (R126). -/
theorem len_ne_zero {s : State} (hlen : LenLegal s) : s.len ≠ 0 := by
  intro hzero
  simp [LenLegal, hzero] at hlen

/-- A command that uses R checks LEN first, and no later check of it reports LEN_RANGE. -/
theorem checksOf_eq_lenCheck_cons (s : State) {i : Instr} (hi : i ∈ [Instr.load, .step, .gen, .crypt]) :
    ∃ cs, checksOf s i = s.lenCheck :: cs ∧ ∀ d ∈ cs, d.2 ≠ .lenRange := by
  simp only [List.mem_cons, List.not_mem_nil, or_false] at hi
  rcases hi with rfl | rfl | rfl | rfl <;> exact ⟨_, rfl, by simp⟩

/-- A command that uses the seed checks LEN, the characters and the count first, in that order. -/
theorem checksOf_eq_seedChecks_append (s : State) {i : Instr} (hi : i ∈ [Instr.load, .gen, .crypt]) :
    ∃ cs, checksOf s i = s.lenCheck :: s.seedCharCheck :: s.seedLenCheck :: cs := by
  simp only [List.mem_cons, List.not_mem_nil, or_false] at hi
  rcases hi with rfl | rfl | rfl <;> exact ⟨_, rfl⟩

/-- With a legal LEN and valid characters, the wrong number of them ends a command that uses the seed in SEED_LEN. -/
theorem exec_seedLen {s : State} {i : Instr} (hi : i ∈ [Instr.load, .gen, .crypt]) (hlen : LenLegal s)
    (hbad : s.bad = false) (hcnt : s.cnt ≠ s.len) : exec i s = .next (s.complete .seedLen) := by
  obtain ⟨cs, hchecks⟩ := checksOf_eq_seedChecks_append s hi
  rw [exec_eq_complete_iff i s (by decide), hchecks, firstError_cons_of_pass ((lenCheck_pass s).mpr hlen),
    firstError_cons_of_pass ((seedCharCheck_pass s).mpr hbad),
    firstError_cons_of_fail ((seedLenCheck_pass s).not.mpr hcnt), seedLenCheck_code]

/-- Where the generator's checks pass, the checks after them decide (R125). -/
theorem firstError_generatorChecks {s : State} (hok : GeneratorOk s) (cs : List Check) :
    firstError (s.lenCheck :: s.seedCharCheck :: s.seedLenCheck :: s.tapCheck :: cs) = firstError cs := by
  obtain ⟨hlen, ⟨hbad, hcnt⟩, htaps⟩ := hok
  rw [firstError_cons_of_pass ((lenCheck_pass s).mpr hlen), firstError_cons_of_pass ((seedCharCheck_pass s).mpr hbad),
    firstError_cons_of_pass ((seedLenCheck_pass s).mpr hcnt), firstError_cons_of_pass ((tapCheck_pass s).mpr htaps)]

/-! ## Regions (R127) -/

/-- Where the region check decides first, the command ends in RANGE exactly when one of its regions is not valid. -/
theorem exec_range_iff {i : Instr} {s : State} (rs : List Region) {cs : List Check}
    (hchecks : firstError (checksOf s i) = firstError (s.rangeCheck rs :: cs)) (hcs : ∀ d ∈ cs, d.2 ≠ .range) :
    exec i s = .next (s.complete .range) ↔ ¬ ∀ r ∈ rs, Inside s r.start r.size := by
  rw [exec_eq_complete_iff i s (by decide), hchecks, ← rangeCheck_pass]
  exact firstError_cons_eq_code_iff hcs

/-! ## The statements -/

/-- Settles O30: a command that does not end with ERR = 0 has ended at a failing check, before its effect. -/
theorem failedCommandsArePrecise : Obligations.FailedCommandsArePrecise := by
  intro i s t hexec herr
  rw [exec_eq_command] at hexec
  rcases command_cases hexec with ⟨c, -, rfl⟩ | ⟨-, rfl⟩
  · rfl
  · simp at herr

/-- Settles O34: the LEN check comes first in each of the four commands, and no other check reports its code. -/
theorem illegalLengthFails : Obligations.IllegalLengthFails := by
  intro s i hi
  obtain ⟨cs, hchecks, hcs⟩ := checksOf_eq_lenCheck_cons s hi
  have hfail : firstError (s.lenCheck :: cs) = some .lenRange ↔ ¬ s.lenCheck.1 = true :=
    firstError_cons_eq_code_iff hcs
  rw [exec_eq_complete_iff i s (by decide), hchecks, hfail, lenCheck_pass]
  omega

/-- Settles O37: the region check decides first in XOR, UNPACK and PACK, and after the generator's checks in GEN and
CRYPT; no check after it reports RANGE. -/
theorem regionOutsideMemFails : Obligations.RegionOutsideMemFails := by
  intro s
  refine ⟨fun hok => ?_, fun hok => ?_, ?_, ?_, ?_⟩
  · refine (exec_range_iff (i := .gen) [⟨s.d, s.la⟩] (firstError_generatorChecks hok _) (by simp)).trans ?_
    simp
  · refine (exec_range_iff (i := .crypt) [⟨s.a, s.la⟩, ⟨s.d, s.la⟩] (firstError_generatorChecks hok _)
      (by simp)).trans ?_
    simp
  · refine (exec_range_iff [⟨s.a, s.la⟩, ⟨s.b, s.lb⟩, ⟨s.d, s.la⟩] rfl (by simp)).trans ?_
    simp
  · refine (exec_range_iff [⟨s.a, s.la⟩, ⟨s.d, 8 * s.la⟩] rfl (by simp)).trans ?_
    simp
  · refine (exec_range_iff [⟨s.a, s.la⟩, ⟨s.d, s.packLen⟩] rfl (by simp)).trans ?_
    simp [State.packLen]

/-- Settles O40: SEEDCLR has no check; it keeps LEN, and the CNT = 0 it leaves differs from every legal R. -/
theorem seedclrClearsSeed : Obligations.SeedclrClearsSeed := by
  refine ⟨decodeWord_encode (i := .seedclr) rfl, fun s => ⟨s.clearSeed.complete .none, ?_, rfl, fun hlen => ?_⟩⟩
  · rw [exec_eq_command]
    exact command_ok rfl
  · have hfails {i : Instr} (hi : i ∈ [Instr.load, .gen, .crypt]) :
        exec i (s.clearSeed.complete .none) = .next ((s.clearSeed.complete .none).complete .seedLen) :=
      exec_seedLen hi hlen rfl (len_ne_zero hlen).symm
    exact ⟨hfails (by decide), hfails (by decide), hfails (by decide)⟩

/-- Settles O23: 0x008 is CMD's own offset; while idle its write accepts the word, while busy it only sets OVR. -/
theorem cmdWriteIsAccepted : Obligations.CmdWriteIsAccepted := by
  intro s w
  refine ⟨fun hidle => ⟨?_, rfl⟩, fun hbusy => ?_⟩
  · have hwrite := busWrite_idle ((busy_eq_false_iff s).mpr hidle) .cmd .b4 w
    exact (transact_regWrite s .cmd w).trans (by rw [hwrite]; rfl)
  · have hwrite := busWrite_busy (g := .reg .cmd) ((busy_eq_true_iff s).mpr hbusy) (by decide) .b4 w
    have hafter : afterBus s (regWrite .cmd w) = s.overrun := by rw [afterBus, transact_regWrite, hwrite]
    exact (congrArg State.pend hafter).trans (by simp)

/-- Settles O39: NOP has no check and no effect, so that only the completion fields change. -/
theorem nopOnlyCompletes : Obligations.NopOnlyCompletes := by
  have hnop (s : State) : exec .nop s = .next (s.complete .none) := by
    rw [exec_eq_command]
    exact command_ok rfl
  exact ⟨decodeWord_encode (i := .nop) rfl, hnop, _, hnop _, by decide⟩

end Sys2Proof.Machine
end

section
/-! PROOFS. Seed entry: a SEEDCHR write, bit by bit (R94, R141, R142). -/

namespace Sys2Proof.Machine

open Sys2Proof.Safety

/-- Writing one bit of a 64-bit value leaves every other bit (R12). -/
theorem getLsbD_setBit (x : DWord) (i : Nat) (v : Bool) {j : Nat} (hj : j < 64) :
    (setBit x i v).getLsbD j = if j = i then v else x.getLsbD j := by
  have hone : (1#64 <<< i).getLsbD j = decide (j = i) := by
    rw [← BitVec.twoPow_eq, BitVec.getLsbD_twoPow]
    by_cases h : j = i
    · simp [h, h ▸ hj]
    · simp [h, Ne.symm h]
  cases v
  · simp only [setBit, Bool.false_eq_true, if_false, BitVec.getLsbD_and, BitVec.getLsbD_not, hone, hj]
    by_cases h : j = i <;> simp [h]
  · simp only [setBit, if_true, BitVec.getLsbD_or, hone]
    by_cases h : j = i <;> simp [h]

/-- The character of a SEEDCHR write is bits 7:0 of the word (R94). -/
theorem seedchr_char_iff (w : Word) (c : Byte) : w.extractLsb' 0 8 = c ↔ w.toNat % 256 = c.toNat := by
  rw [← BitVec.toNat_inj, BitVec.extractLsb'_toNat, Nat.shiftRight_zero]

/-- A valid character appends its bit while CNT < 64, and counts up to 127 (R141). -/
theorem writeSeedchr_valid (s : State) {w : Word} (h : w.toNat % 256 = 0x30 ∨ w.toNat % 256 = 0x31) :
    s.writeSeedchr w =
      { s with
        seed := if s.cnt.toNat < 64 then setBit s.seed s.cnt.toNat (w.getLsbD 0) else s.seed
        cnt := BitVec.ofNat 7 (min (s.cnt.toNat + 1) 127) } :=
  if_pos (h.imp (seedchr_char_iff w 0x30).mpr (seedchr_char_iff w 0x31).mpr)

/-- Any other character sets BAD (R141). -/
theorem writeSeedchr_invalid (s : State) {w : Word} (h : ¬ (w.toNat % 256 = 0x30 ∨ w.toNat % 256 = 0x31)) :
    s.writeSeedchr w = { s with bad := true } :=
  if_neg fun hc => h (hc.imp (seedchr_char_iff w 0x30).mp (seedchr_char_iff w 0x31).mp)

/-- Settles O27: while idle the write is the SEEDCHR rule, whose bit lands at SEED[CNT] or nowhere; while busy the
filter only sets OVR. -/
theorem seedCharacterEntry : Obligations.SeedCharacterEntry := by
  intro s w
  refine ⟨fun hidle t ht => ?_, fun hbusy => ?_⟩
  · rw [afterBus, transact_regWrite, busWrite_idle ((busy_eq_false_iff s).mpr hidle), State.writeReg] at ht
    refine ⟨fun hvalid => ?_, fun hinvalid => ht.trans (writeSeedchr_invalid s hinvalid)⟩
    rw [writeSeedchr_valid s hvalid] at ht
    subst ht
    refine ⟨fun j hj => ?_, ?_, rfl⟩
    · by_cases hcnt : s.cnt.toNat < 64
      · simp only [hcnt, if_true, getLsbD_setBit _ _ _ hj]
      · rw [if_neg hcnt, if_neg (by omega)]
    · exact Nat.mod_eq_of_lt (by omega)
  · rw [afterBus, transact_regWrite, busWrite_busy ((busy_eq_true_iff s).mpr hbusy) (by decide), State.overrun]

end Sys2Proof.Machine
end

section
/-! PROOFS. The seed checks and the tap check, and the errors of a command in order (R125, R143, R144). -/

namespace Sys2Proof.Machine

open Sys2Proof.Safety

/-- Conditions that are met exactly when the checks pass, with the checks' codes, are reported in the checks' order. -/
theorem failsInOrder_of_firstError {i : Instr} {s : State} {ps : List (Prop × ErrCode)} {cs : List Check}
    (hchecks : firstError (checksOf s i) = firstError cs)
    (hps : List.Forall₂ (fun p c => (c.1 = true ↔ p.1) ∧ c.2 = p.2) ps cs) : FailsInOrder i s ps := by
  induction hps with
  | nil => exact trivial
  | cons hpc _ ih =>
    obtain ⟨hpass, hcode⟩ := hpc
    refine ⟨fun hp => ?_, fun hp => ih (hchecks.trans (firstError_cons_of_pass (hpass.mpr hp) _))⟩
    rw [exec_eq_command, ← hcode]
    exact command_error (hchecks.trans (firstError_cons_of_fail (hpass.not.mpr hp) _))

/-- A command all of whose checks pass has its effect and completes with ERR = 0. -/
theorem exec_of_checks_pass {i : Instr} {s : State} (h : ∀ c ∈ checksOf s i, c.1 = true) :
    exec i s = .next ((effectOf s i).complete .none) := by
  rw [exec_eq_command]
  exact command_ok ((firstError_none_iff _).mpr h)

/-- No check after the LEN check and the two seed checks reports a code of the seed. -/
theorem checksOf_eq_seedChecks_cons (s : State) {i : Instr} (hi : i ∈ [Instr.load, .gen, .crypt]) :
    ∃ cs, checksOf s i = s.lenCheck :: s.seedCharCheck :: s.seedLenCheck :: cs ∧
      ∀ d ∈ cs, d.2 ≠ .seedChar ∧ d.2 ≠ .seedLen := by
  simp only [List.mem_cons, List.not_mem_nil, or_false] at hi
  rcases hi with rfl | rfl | rfl <;> exact ⟨_, rfl, by simp⟩

/-- With a legal LEN and, but for STEP, a usable seed, the tap check decides first, and no later check reports its
code. -/
theorem firstError_eq_tapCheck_cons {s : State} {i : Instr} (hi : i ∈ [Instr.step, .gen, .crypt])
    (hlen : LenLegal s) (hseed : i ≠ .step → SeedUsable s) :
    ∃ cs, firstError (checksOf s i) = firstError (s.tapCheck :: cs) ∧ ∀ d ∈ cs, d.2 ≠ .tapRange := by
  have hpass := firstError_cons_of_pass ((lenCheck_pass s).mpr hlen)
  have hseeded (h : i ≠ .step) (cs : List Check) :
      firstError (s.lenCheck :: s.seedCharCheck :: s.seedLenCheck :: cs) = firstError cs := by
    obtain ⟨hbad, hcnt⟩ := hseed h
    rw [hpass, firstError_cons_of_pass ((seedCharCheck_pass s).mpr hbad),
      firstError_cons_of_pass ((seedLenCheck_pass s).mpr hcnt)]
  simp only [List.mem_cons, List.not_mem_nil, or_false] at hi
  rcases hi with rfl | rfl | rfl
  · exact ⟨_, hpass _, by simp⟩
  · exact ⟨_, hseeded (by decide) _, by simp⟩
  · exact ⟨_, hseeded (by decide) _, by simp⟩

/-- A tap check fails exactly when a tap above R is set (R144). -/
theorem not_tapsLegal_iff (s : State) : ¬ TapsLegal s ↔ ∃ j, s.len.toNat ≤ j ∧ s.taps.getLsbD j = true := by
  constructor
  · intro h
    simp only [TapsLegal, not_forall, Bool.not_eq_false] at h
    obtain ⟨j, -, hlen, htap⟩ := h
    exact ⟨j, hlen, htap⟩
  · rintro ⟨j, hlen, htap⟩ h
    rw [h j (BitVec.lt_of_getLsbD htap) hlen] at htap
    exact Bool.false_ne_true htap

/-- Settles O35: the character check decides after the LEN check, the count check after both; no later check reports
either code. -/
theorem unusableSeedFails : Obligations.UnusableSeedFails := by
  intro s i hi hlen
  obtain ⟨cs, hchecks, hcs⟩ := checksOf_eq_seedChecks_cons s hi
  have hafterLen : firstError (checksOf s i) = firstError (s.seedCharCheck :: s.seedLenCheck :: cs) := by
    rw [hchecks, firstError_cons_of_pass ((lenCheck_pass s).mpr hlen)]
  rw [exec_eq_complete_iff i s (by decide), exec_eq_complete_iff i s (by decide), hafterLen]
  refine ⟨?_, fun hbad => ?_⟩
  · refine (firstError_cons_eq_code_iff (c := s.seedCharCheck) ?_).trans (by simp)
    exact List.forall_mem_cons.mpr ⟨by simp, fun d hd => (hcs d hd).1⟩
  · rw [firstError_cons_of_pass ((seedCharCheck_pass s).mpr hbad)]
    exact (firstError_cons_eq_code_iff (c := s.seedLenCheck) fun d hd => (hcs d hd).2).trans (by simp)

/-- Settles O36: the tap check decides after the LEN check and, but for STEP, the seed checks; the empty tap set has no
tap above R. -/
theorem tapAboveLengthFails : Obligations.TapAboveLengthFails := by
  intro s i hi hlen hseed
  obtain ⟨cs, hchecks, hcs⟩ := firstError_eq_tapCheck_cons hi hlen hseed
  have hiff : exec i s = .next (s.complete .tapRange) ↔ ∃ j, s.len.toNat ≤ j ∧ s.taps.getLsbD j = true := by
    rw [exec_eq_complete_iff i s (by decide), hchecks, ← not_tapsLegal_iff, ← tapCheck_pass]
    exact firstError_cons_eq_code_iff (c := s.tapCheck) hcs
  exact ⟨hiff, fun hzero => by simp [hiff, hzero]⟩

end Sys2Proof.Machine
end

section
/-! PROOFS. The step function bit by bit, its keystream, and when it is injective (R145 to R148). -/

namespace Sys2Proof.Machine

open Sys2Proof.Safety

/-! ## The exclusive-or over the taps (R145 b) -/

@[simp] theorem tapXor_zero (r : Nat → Bool) (taps : DWord) : tapXor r taps 0 = false := rfl

/-- One more list member toggles whether an odd number of members is kept. -/
theorem odd_length_filter_cons (p : Nat → Bool) (j : Nat) (l : List Nat) :
    decide (((j :: l).filter p).length % 2 = 1) = (p j ^^ decide ((l.filter p).length % 2 = 1)) := by
  cases hp : p j with
  | false => simp [hp]
  | true =>
    rw [List.filter_cons_of_pos hp, List.length_cons, Bool.true_xor, ← decide_not, decide_eq_decide]
    omega

/-- The exclusive-or over the taps, with the last place apart. -/
theorem tapXor_succ (r : Nat → Bool) (taps : DWord) (n : Nat) :
    tapXor r taps (n + 1) = (tapXor r taps n ^^ (taps.getLsbD n && r n)) := by
  have hperm : (List.range (n + 1)).Perm (n :: List.range n) := by
    rw [List.range_succ]
    exact List.perm_append_singleton n _
  rw [tapXor, (hperm.filter _).length_eq, odd_length_filter_cons, Bool.xor_comm, tapXor]

/-- The exclusive-or over the taps, with the first place apart. -/
theorem tapXor_succ_first (r : Nat → Bool) (taps : DWord) (n : Nat) :
    tapXor r taps (n + 1) = ((taps.getLsbD 0 && r 0) ^^ tapXor (fun j => r (j + 1)) (taps >>> 1) n) := by
  induction n with
  | zero => simp [tapXor_succ]
  | succ n ih =>
    rw [tapXor_succ, ih, tapXor_succ, BitVec.getLsbD_ushiftRight, Nat.add_comm 1 n, Bool.xor_assoc]

/-- Only the tapped bits below R count. -/
theorem tapXor_congr {r r' : Nat → Bool} {taps : DWord} {n : Nat}
    (h : ∀ j < n, taps.getLsbD j = true → r j = r' j) : tapXor r taps n = tapXor r' taps n := by
  induction n with
  | zero => rfl
  | succ n ih =>
    rw [tapXor_succ, tapXor_succ, ih fun j hj => h j (Nat.lt_succ_of_lt hj)]
    cases htap : taps.getLsbD n with
    | false => rfl
    | true => rw [h n (Nat.lt_succ_self n) htap]

/-- The feedback bit is the exclusive-or of the register bits at the taps up to R, for every R up to 64 (R145 b). -/
theorem feedback_eq_tapXor (v taps : DWord) {len : Nat} (hlen : len ≤ 64) :
    feedback v taps len = tapXor (fun k => v.getLsbD k) taps len := by
  have hloop : parity (v &&& taps &&& ones len) = tapXor (fun k => v.getLsbD k) taps (min 64 len) := by
    refine forUp_invariant (fun i p => p = tapXor (fun k => v.getLsbD k) taps (min i len)) 64 (by simp) ?_
    intro i p hi hp
    rw [hp]
    by_cases hbelow : i < len
    · rw [Nat.min_eq_left hbelow.le, Nat.min_eq_left (Nat.succ_le_of_lt hbelow), tapXor_succ]
      simp [hi, hbelow, Bool.and_comm]
    · rw [Nat.min_eq_right (by omega), Nat.min_eq_right (by omega)]
      simp [hbelow]
  rw [feedback, hloop, Nat.min_eq_right hlen]

/-! ## The step function (R145, R146) -/

/-- Bit by bit, the state after a step. -/
theorem getLsbD_lfsrStep (v taps : DWord) {len : Nat} (hpos : 1 ≤ len) (hmax : len ≤ 64) (j : Nat) :
    (lfsrStep v taps len).2.getLsbD j =
      if j + 1 < len then v.getLsbD (j + 1)
      else if j + 1 = len then tapXor (fun k => v.getLsbD k) taps len
      else false := by
  have hshift : ((v &&& ones len) >>> 1).getLsbD j = (decide (j + 1 < len) && v.getLsbD (j + 1)) := by
    rw [BitVec.getLsbD_ushiftRight, BitVec.getLsbD_and, getLsbD_ones, Nat.add_comm 1 j]
    by_cases hj : j + 1 < len
    · simp [hj, hj.trans_le hmax]
    · simp [hj]
  have hplace : ((BitVec.ofBool (feedback v taps len)).setWidth 64 <<< (len - 1)).getLsbD j =
      (decide (j + 1 = len) && feedback v taps len) := by
    rw [BitVec.getLsbD_shiftLeft, BitVec.getLsbD_setWidth, BitVec.getLsbD_ofBool]
    by_cases hj : j + 1 = len
    · simp [hj, show j < 64 by omega, show j - (len - 1) = 0 by omega, show ¬ j < len - 1 by omega]
    · by_cases hlow : j < len - 1
      · simp [hj, hlow]
      · simp [hj, show ¬ j - (len - 1) = 0 by omega]
  rw [lfsrStep, BitVec.getLsbD_or, hshift, hplace, feedback_eq_tapXor v taps hmax]
  split_ifs with h1 h2
  · simp [h1, show j + 1 ≠ len by omega]
  · simp [h2]
  · simp [h1, h2]

/-- Settles O42: the output is bit 0 by definition, and the state after the step is read bit by bit. -/
theorem lfsrStepBitByBit : Obligations.LfsrStepBitByBit :=
  fun v taps _ hpos hmax => ⟨rfl, getLsbD_lfsrStep v taps hpos hmax⟩

/-! ## The keystream (R147) -/

/-- Before the first step the register holds the R seed bits (R152). -/
theorem keystreamState_zero (seed taps : DWord) (len : Nat) : keystreamState seed taps len 0 = seed &&& ones len := rfl

/-- One more step from the seed is one step of the register. -/
theorem keystreamState_succ (seed taps : DWord) (len i : Nat) :
    keystreamState seed taps len (i + 1) = (lfsrStep (keystreamState seed taps len i) taps len).2 :=
  Function.iterate_succ_apply' _ _ _

/-- The register after i steps depends on no seed bit from R on (R149). -/
theorem keystreamState_congr {seed seed' : DWord} (taps : DWord) {len : Nat}
    (h : ∀ j < len, seed'.getLsbD j = seed.getLsbD j) (i : Nat) :
    keystreamState seed' taps len i = keystreamState seed taps len i := by
  have hones : seed' &&& ones len = seed &&& ones len := by
    refine BitVec.eq_of_getLsbD_eq fun j _ => ?_
    rw [BitVec.getLsbD_and, BitVec.getLsbD_and, getLsbD_ones]
    by_cases hj : j < len
    · rw [h j hj]
    · simp [hj]
  rw [keystreamState, hones, keystreamState]

/-- The register holds the next R units: its bit j is the unit j steps later. -/
theorem getLsbD_keystreamState (seed taps : DWord) {len : Nat} (hpos : 1 ≤ len) (hmax : len ≤ 64) {j : Nat}
    (hj : j < len) (i : Nat) : (keystreamState seed taps len i).getLsbD j = keystreamBit seed taps len (i + j) := by
  induction j generalizing i with
  | zero => rfl
  | succ j ih =>
    have hnext : (keystreamState seed taps len (i + 1)).getLsbD j =
        (keystreamState seed taps len i).getLsbD (j + 1) := by
      rw [keystreamState_succ, getLsbD_lfsrStep _ _ hpos hmax, if_pos hj]
    rw [← hnext, ih (by omega), Nat.add_right_comm, Nat.add_assoc]

/-- The first R units are the seed bits (R147). -/
theorem keystreamBit_of_lt (seed taps : DWord) {len i : Nat} (hmax : len ≤ 64) (hi : i < len) :
    keystreamBit seed taps len i = seed.getLsbD i := by
  have hbit := getLsbD_keystreamState seed taps (by omega) hmax hi 0
  rw [Nat.zero_add] at hbit
  rw [← hbit, keystreamState_zero, BitVec.getLsbD_and, getLsbD_ones]
  simp [hi, hi.trans_le hmax]

/-- A unit from R on is the feedback of the R units before it (R147). -/
theorem keystreamBit_add_len (seed taps : DWord) {len : Nat} (hpos : 1 ≤ len) (hmax : len ≤ 64) (i : Nat) :
    keystreamBit seed taps len (i + len) = tapXor (fun j => keystreamBit seed taps len (i + j)) taps len := by
  obtain ⟨top, rfl⟩ : ∃ top, len = top + 1 := ⟨len - 1, by omega⟩
  calc keystreamBit seed taps (top + 1) (i + (top + 1))
      = (keystreamState seed taps (top + 1) (i + 1)).getLsbD top := by
        rw [getLsbD_keystreamState seed taps hpos hmax (Nat.lt_succ_self top), Nat.add_right_comm, Nat.add_assoc]
    _ = tapXor (fun j => (keystreamState seed taps (top + 1) i).getLsbD j) taps (top + 1) := by
        rw [keystreamState_succ, getLsbD_lfsrStep _ _ hpos hmax, if_neg (lt_irrefl _), if_pos rfl]
    _ = tapXor (fun j => keystreamBit seed taps (top + 1) (i + j)) taps (top + 1) :=
        tapXor_congr fun j hj _ => getLsbD_keystreamState seed taps hpos hmax hj i

/-- The exclusive-or over a tap set whose places are listed is the exclusive-or over that list. -/
theorem tapXor_eq_foldr {taps : DWord} {len : Nat} {places : List Nat}
    (h : (List.range len).filter (fun j => taps.getLsbD j) = places) (r : Nat → Bool) :
    tapXor r taps len = places.foldr (fun j p => r j ^^ p) false := by
  have hplaces : tapXor r taps len = decide ((places.filter r).length % 2 = 1) := by
    rw [← h, List.filter_filter]
    simp only [tapXor, Bool.and_comm]
  rw [hplaces]
  clear h hplaces
  induction places with
  | nil => rfl
  | cons j places ih => rw [odd_length_filter_cons, ih, List.foldr_cons]

/-- Settles O49: the register holds the next R units, so its feedback is the next one after them; the two tap sets of
the source have the places listed. -/
theorem keystreamRecurrence : Obligations.KeystreamRecurrence := by
  refine ⟨fun seed taps len hpos hmax =>
    ⟨fun i hi => keystreamBit_of_lt seed taps hmax hi, keystreamBit_add_len seed taps hpos hmax⟩,
    fun seed i => ?_, fun seed i => ?_⟩
  · rw [keystreamBit_add_len _ _ (by decide) (by decide), tapXor_eq_foldr (places := [12, 32]) (by decide)]
    simp [Bool.xor_comm]
  · rw [keystreamBit_add_len _ _ (by decide) (by decide), tapXor_eq_foldr (places := [9, 11, 12, 32]) (by decide)]
    simp [Bool.xor_comm]

/-! ## Injectivity (R148) -/

/-- Without tap 1 bit 0 does not reach the state after the step. -/
theorem lfsrStep_eq_of_no_tapOne {taps : DWord} {len : Nat} (hpos : 1 ≤ len) (hmax : len ≤ 64)
    (htap : taps.getLsbD 0 = false) {u v : DWord} (huv : ∀ j, 1 ≤ j → u.getLsbD j = v.getLsbD j) :
    (lfsrStep u taps len).2 = (lfsrStep v taps len).2 := by
  have hxor : tapXor (fun k => u.getLsbD k) taps len = tapXor (fun k => v.getLsbD k) taps len := by
    refine tapXor_congr fun j _ htapj => huv j (Nat.one_le_iff_ne_zero.mpr ?_)
    rintro rfl
    exact Bool.false_ne_true (htap.symm.trans htapj)
  refine BitVec.eq_of_getLsbD_eq fun j _ => ?_
  rw [getLsbD_lfsrStep u taps hpos hmax, getLsbD_lfsrStep v taps hpos hmax, huv (j + 1) (by omega), hxor]

/-- The step loses no bit but bit 0. -/
theorem getLsbD_eq_of_lfsrStep_eq {taps u v : DWord} {len : Nat} (hmax : len ≤ 64)
    (heq : (lfsrStep u taps len).2 = (lfsrStep v taps len).2) {j : Nat} (hj : j + 1 < len) :
    u.getLsbD (j + 1) = v.getLsbD (j + 1) := by
  have hbit := congrArg (fun x => x.getLsbD j) heq
  simpa only [getLsbD_lfsrStep _ taps (show 1 ≤ len by omega) hmax, if_pos hj] using hbit

/-- With tap 1 bit 0 is recovered from the feedback. -/
theorem getLsbD_zero_eq_of_lfsrStep_eq {taps u v : DWord} {len : Nat} (hpos : 1 ≤ len) (hmax : len ≤ 64)
    (htap : taps.getLsbD 0 = true) (heq : (lfsrStep u taps len).2 = (lfsrStep v taps len).2) :
    u.getLsbD 0 = v.getLsbD 0 := by
  obtain ⟨top, rfl⟩ : ∃ top, len = top + 1 := ⟨len - 1, by omega⟩
  have hxor : tapXor (fun k => u.getLsbD k) taps (top + 1) = tapXor (fun k => v.getLsbD k) taps (top + 1) := by
    simpa only [getLsbD_lfsrStep _ taps hpos hmax, lt_irrefl, if_false, if_true]
      using congrArg (fun x => x.getLsbD top) heq
  have hrest : tapXor (fun j => u.getLsbD (j + 1)) (taps >>> 1) top =
      tapXor (fun j => v.getLsbD (j + 1)) (taps >>> 1) top :=
    tapXor_congr fun j hj _ => getLsbD_eq_of_lfsrStep_eq hmax heq (Nat.succ_lt_succ hj)
  rw [tapXor_succ_first, tapXor_succ_first, hrest, htap, Bool.true_and, Bool.true_and] at hxor
  exact Bool.xor_left_inj.mp hxor

/-- Settles O50: without tap 1 the states 0 and 1 collide; with it each bit of the state before is recovered. -/
theorem stepInjectiveIffTapOne : Obligations.StepInjectiveIffTapOne := by
  refine ⟨fun taps len hpos hmax => ⟨fun hinj => ?_, fun htap u v hlow heq => ?_⟩,
    fun taps len hpos hmax htap u v huv => lfsrStep_eq_of_no_tapOne hpos hmax htap huv, by decide, by decide⟩
  · by_contra htap
    have hone {j : Nat} (hj : 1 ≤ j) : (1 : DWord).getLsbD j = false := by
      rw [BitVec.ofNat_eq_ofNat, BitVec.getLsbD_one]
      simp [show j ≠ 0 by omega]
    have hcollide := lfsrStep_eq_of_no_tapOne (u := 0) (v := 1) hpos hmax (Bool.eq_false_iff.mpr htap)
      fun j hj => by simpa using (hone hj).symm
    exact absurd (hinj 0 1 (fun j hj => ⟨by simp, hone (hpos.trans hj)⟩) hcollide) (by decide)
  · refine BitVec.eq_of_getLsbD_eq fun j _ => ?_
    by_cases hj : len ≤ j
    · rw [(hlow j hj).1, (hlow j hj).2]
    · cases j with
      | zero => exact getLsbD_zero_eq_of_lfsrStep_eq hpos hmax htap heq
      | succ j => exact getLsbD_eq_of_lfsrStep_eq hmax heq (by omega)

end Sys2Proof.Machine
end

section
/-! PROOFS. LOAD, STEP and GEN: their errors in order, their effect and their frame (R149 to R153). -/

namespace Sys2Proof.Machine

open Sys2Proof.Safety

/-- The completion fields after completion (R124). -/
theorem completed_complete (s : State) (code : ErrCode) : Completed (s.complete code) code := ⟨rfl, rfl, rfl⟩

/-! ## LOAD and STEP (R150, R151) -/

/-- LOAD whose checks pass loads STATE and completes with ERR = 0. -/
theorem exec_load_of_loadOk {s : State} (hok : LoadOk s) : exec .load s = .next (s.loadSeed.complete .none) := by
  obtain ⟨hlen, hbad, hcnt⟩ := hok
  refine exec_of_checks_pass ?_
  simp only [checksOf, List.forall_mem_cons, lenCheck_pass, seedCharCheck_pass, seedLenCheck_pass]
  exact ⟨hlen, hbad, hcnt, by simp⟩

/-- STEP whose checks pass steps STATE and completes with ERR = 0. -/
theorem exec_step_of_stepOk {s : State} (hok : StepOk s) : exec .step s = .next (s.emit.complete .none) := by
  obtain ⟨hlen, htaps⟩ := hok
  refine exec_of_checks_pass ?_
  simp only [checksOf, List.forall_mem_cons, lenCheck_pass, tapCheck_pass]
  exact ⟨hlen, htaps, by simp⟩

/-- Loading STATE copies the SEED bits below R and no other (R150). -/
theorem getLsbD_loadSeed_state (s : State) (j : Nat) :
    s.loadSeed.state.getLsbD j = (decide (j < s.len.toNat) && s.seed.getLsbD j) := by
  rw [State.loadSeed, BitVec.getLsbD_and, getLsbD_ones, State.regLen]
  by_cases hj : j < 64
  · simp [hj, Bool.and_comm]
  · simp [BitVec.getLsbD_of_ge s.seed j (by omega)]

/-- Settles O41: LOAD's checks are the LEN check and the seed checks, and its effect sets STATE alone. -/
theorem loadCopiesSeed : Obligations.LoadCopiesSeed := by
  refine ⟨decodeWord_encode (i := .load) rfl, fun s => ⟨?_, fun hok => ?_⟩⟩
  · exact failsInOrder_of_firstError (cs := checksOf s .load) rfl (by simp [checksOf])
  · exact ⟨_, exec_load_of_loadOk hok, completed_complete _ _, getLsbD_loadSeed_state s, rfl, ⟨rfl, rfl, rfl⟩,
      by simp [HostRegistersKept], fun _ => rfl⟩

/-- Settles O43: STEP's checks are the LEN check and the tap check, and its effect is one step with its output bit. -/
theorem stepStepsState : Obligations.StepStepsState := by
  refine ⟨decodeWord_encode (i := .step) rfl, fun s => ⟨?_, fun hok => ?_⟩⟩
  · exact failsInOrder_of_firstError (cs := checksOf s .step) rfl (by simp [checksOf])
  · exact ⟨_, exec_step_of_stepOk hok, completed_complete _ _, rfl, rfl, ⟨rfl, rfl, rfl⟩,
      by simp [HostRegistersKept], fun _ => rfl⟩

/-! ## The generator's loop (R152, R153) -/

/-- What the generator holds after i steps from the seed of s: the register and OBIT of the keystream, and the settings
the next step reads. -/
structure Emitted (s : State) (i : Nat) (t : State) : Prop where
  len   : t.len = s.len
  taps  : t.taps = s.taps
  state : t.state = keystreamState s.seed s.taps s.len.toNat i
  obit  : t.obit = if i = 0 then s.obit else unitAt s (i - 1)

/-- No step is done when STATE is loaded from SEED (R152). -/
theorem emitted_loadSeed (s : State) : Emitted s 0 s.loadSeed := by
  constructor <;> simp [keystreamState_zero, State.regLen]

/-- Step i emits unit i (R147). -/
theorem emit_obit_of_emitted {s t : State} {i : Nat} (h : Emitted s i t) : t.emit.obit = unitAt s i := by
  simp [h.state, lfsrStep, keystreamBit]

/-- A step goes on to the next unit. -/
theorem emitted_emit {s t : State} {i : Nat} (h : Emitted s i t) : Emitted s (i + 1) t.emit where
  len := by simp [h.len]
  taps := by simp [h.taps]
  state := by simp [State.regLen, h.len, h.taps, h.state, keystreamState_succ]
  obit := emit_obit_of_emitted h

/-- The generator does not depend on MEM. -/
theorem emitted_writeByte {s t : State} {i : Nat} (h : Emitted s i t) (a : Nat) (v : Byte) :
    Emitted s i (t.writeByte a v) := ⟨h.len, h.taps, h.state, h.obit⟩

/-- After n iterations of GEN the generator has emitted n units, and they stand in n bytes from d on alone (R153). -/
theorem genLoop_spec (s : State) (n : Nat) :
    Emitted s n (forUp n (genUnit s.d) s.loadSeed) ∧
      ∀ x, (forUp n (genUnit s.d) s.loadSeed).readByte x =
        if s.d ≤ x ∧ x < s.d + n then unitByte (unitAt s (x - s.d)) else s.readByte x := by
  induction n with
  | zero =>
    refine ⟨emitted_loadSeed s, fun x => ?_⟩
    rw [if_neg (by omega), forUp_zero, readByte_loadSeed]
  | succ n ih =>
    obtain ⟨hgen, hbytes⟩ := ih
    refine ⟨emitted_writeByte (emitted_emit hgen) _ _, fun x => ?_⟩
    rw [forUp_succ, genUnit, readByte_writeByte, emit_obit_of_emitted hgen]
    by_cases hx : x = s.d + n
    · rw [if_pos hx, if_pos (by omega), hx, Nat.add_sub_cancel_left]
    · rw [if_neg hx, readByte_emit, hbytes]
      exact if_congr (by omega) rfl rfl

/-- After GEN's effect the generator has emitted LEN_A units (R153). -/
theorem emitted_genEffect (s : State) : Emitted s s.la s.genEffect := (genLoop_spec s s.la).1

/-- Byte i of the destination is unit i (R153). -/
theorem readByte_genEffect_dest (s : State) {i : Nat} (hi : i < s.la) :
    s.genEffect.readByte (s.d + i) = unitByte (unitAt s i) := by
  rw [State.genEffect, (genLoop_spec s s.la).2, if_pos (by omega), Nat.add_sub_cancel_left]

/-- GEN leaves every byte outside the destination (R153). -/
theorem memKeptOutside_genEffect (s : State) : MemKeptOutside s s.genEffect s.d s.la := by
  intro x hx
  rw [State.genEffect, (genLoop_spec s s.la).2, if_neg (by omega)]

/-- GEN whose checks pass has its effect and completes with ERR = 0. -/
theorem exec_gen_of_genOk {s : State} (hok : GenOk s) : exec .gen s = .next (s.genEffect.complete .none) := by
  obtain ⟨⟨hlen, ⟨hbad, hcnt⟩, htaps⟩, hin⟩ := hok
  refine exec_of_checks_pass ?_
  simp only [checksOf, List.forall_mem_cons, lenCheck_pass, seedCharCheck_pass, seedLenCheck_pass, tapCheck_pass,
    rangeCheck_pass]
  exact ⟨hlen, hbad, hcnt, htaps, ⟨hin, by simp⟩, by simp⟩

/-- GEN keeps SEED, SEEDCTL and every register of the host. -/
theorem genEffect_keeps (s : State) : SeedKept s s.genEffect ∧ HostRegistersKept s s.genEffect := by
  rw [genEffect_eq]
  simp [SeedKept, HostRegistersKept]

/-- Settles O44: GEN's checks come in the order of its rule, and its loop writes the keystream. -/
theorem genWritesKeystream : Obligations.GenWritesKeystream := by
  refine ⟨decodeWord_encode (i := .gen) rfl, fun s => ⟨?_, fun hok => ?_⟩⟩
  · exact failsInOrder_of_firstError (cs := checksOf s .gen) rfl (by simp [checksOf])
  · obtain ⟨hseed, hregs⟩ := genEffect_keeps s
    have hgen := emitted_genEffect s
    exact ⟨_, exec_gen_of_genOk hok, completed_complete _ _, fun i hi => readByte_genEffect_dest s hi,
      hgen.state, hgen.obit, memKeptOutside_genEffect s, hseed, hregs⟩

/-- Settles O51: what GEN leaves is written from the keystream, and the keystream reads SEED below R only. -/
theorem genIsDeterministic : Obligations.GenIsDeterministic := by
  intro s s' t t' hok hok' hlen htaps hlenA hseed hexec hexec'
  obtain rfl : s.genEffect.complete .none = t := by simpa [exec_gen_of_genOk hok] using hexec
  obtain rfl : s'.genEffect.complete .none = t' := by simpa [exec_gen_of_genOk hok'] using hexec'
  have hla : s'.la = s.la := congrArg BitVec.toNat hlenA
  have hkey (i : Nat) :
      keystreamState s'.seed s'.taps s'.len.toNat i = keystreamState s.seed s.taps s.len.toNat i := by
    rw [htaps, hlen, keystreamState_congr s.taps hseed]
  refine ⟨?_, fun i hi => ?_⟩
  · calc s'.genEffect.state
        = keystreamState s'.seed s'.taps s'.len.toNat s.la := hla ▸ (emitted_genEffect s').state
      _ = keystreamState s.seed s.taps s.len.toNat s.la := hkey _
      _ = s.genEffect.state := (emitted_genEffect s).state.symm
  · have hunit : unitAt s' i = unitAt s i := by rw [unitAt, keystreamBit, hkey, unitAt, keystreamBit]
    rw [readByte_complete, readByte_complete, readByte_genEffect_dest s hi, readByte_genEffect_dest s' (hla ▸ hi),
      hunit]

end Sys2Proof.Machine
end

section
/-! PROOFS. What a successful command has done, and the loops that write one byte after another while they read bytes
not yet written (R123, R128). -/

namespace Sys2Proof.Machine

open Sys2Proof.Safety

/-! ## Success (R123, R124) -/

/-- No check reports ERR = 0. -/
theorem checksOf_code_ne_none {s : State} {i : Instr} : ∀ c ∈ checksOf s i, c.2 ≠ .none := by
  cases i <;> simp [checksOf]

/-- A command that ends with ERR = 0 has passed all its checks and has had its effect. -/
theorem exec_success {i : Instr} {s t : State} (hexec : exec i s = .next t) (herr : t.err = .none) :
    (∀ c ∈ checksOf s i, c.1 = true) ∧ t = (effectOf s i).complete .none := by
  rw [exec_eq_command] at hexec
  rcases command_cases hexec with ⟨c, hfail, rfl⟩ | ⟨hpass, rfl⟩
  · exact absurd (by simpa using herr) (checksOf_code_ne_none _ (firstError_mem hfail))
  · exact ⟨(firstError_none_iff _).mp hpass, rfl⟩

/-- Two checks in a row that report the same code act as one. -/
theorem firstError_cons_cons_same_code (p q : Bool) (code : ErrCode) (cs : List Check) :
    firstError ((p, code) :: (q, code) :: cs) = firstError ((p && q, code) :: cs) := by
  cases p <;> rfl

/-- Lists of checks that report the same error still do after one more check before both. -/
theorem firstError_cons_congr {cs cs' : List Check} (c : Check) (h : firstError cs = firstError cs') :
    firstError (c :: cs) = firstError (c :: cs') := by
  by_cases hpass : c.1 = true
  · rw [firstError_cons_of_pass hpass, firstError_cons_of_pass hpass, h]
  · rw [firstError_cons_of_fail hpass, firstError_cons_of_fail hpass]

/-! ## Bytes written in increasing order (R170, R175) -/

/-- The bytes of `t` are those of `s` but for the n bytes from d on, where byte i is `out i`. -/
def Written (s : State) (d : Nat) (out : Nat → Byte) (n : Nat) (t : State) : Prop :=
  ∀ x, t.readByte x = if d ≤ x ∧ x < d + n then out (x - d) else s.readByte x

/-- With nothing written every byte reads as before. -/
theorem written_zero {s t : State} (d : Nat) (out : Nat → Byte) (h : MemKept s t) : Written s d out 0 t := by
  intro x
  rw [if_neg (by omega), h x]

/-- One more byte at the end of those written. -/
theorem written_writeByte {s t : State} {d n : Nat} {out : Nat → Byte} (h : Written s d out n t) :
    Written s d out (n + 1) (t.writeByte (d + n) (out n)) := by
  intro x
  rw [readByte_writeByte]
  by_cases hx : x = d + n
  · rw [if_pos hx, if_pos (by omega), hx, Nat.add_sub_cancel_left]
  · rw [if_neg hx, h x]
    exact if_congr (by omega) rfl rfl

/-- A byte written reads as what was written. -/
theorem readByte_of_written {s t : State} {d n : Nat} {out : Nat → Byte} (h : Written s d out n t) {i : Nat}
    (hi : i < n) : t.readByte (d + i) = out i := by
  rw [h, if_pos (by omega), Nat.add_sub_cancel_left]

/-- The same bytes written at the same place over bytes that agree. -/
theorem readByte_eq_of_written {s t s' t' : State} {d n x : Nat} {out out' : Nat → Byte} (h : Written s d out n t)
    (h' : Written s' d out' n t') (hout : ∀ i < n, out' i = out i) (hx : s'.readByte x = s.readByte x) :
    t'.readByte x = t.readByte x := by
  rw [h x, h' x]
  split_ifs with hin
  · exact hout _ (by omega)
  · exact hx

/-- Every other byte is kept. -/
theorem memKeptOutside_of_written {s t : State} {d n : Nat} {out : Nat → Byte} (h : Written s d out n t) :
    MemKeptOutside s t d n := by
  intro x hx
  rw [h, if_neg (by omega)]

/-- Byte i of a source that the destination overlaps only in place is not yet written when i bytes are (R128). -/
theorem readByte_source_of_written {s t : State} {d la p m i : Nat} {out : Nat → Byte}
    (hapart : AlignedOrDisjoint d la p m) (hla : i < la) (hm : i < m) (h : Written s d out i t) :
    t.readByte (p + i) = s.readByte (p + i) :=
  memKeptOutside_of_written h _ (by omega)

end Sys2Proof.Machine
end

section
/-! PROOFS. XOR: its errors in order, its effect and its frame, XOR applied twice, and a key of units (R172 to R174). -/

namespace Sys2Proof.Machine

open Sys2Proof.Safety

/-! ## The bytes XOR writes (R170, R172) -/

/-- Byte i of XOR's destination, of the bytes before the command (R172). -/
def xorOut (s : State) (i : Nat) : Byte :=
  if i < min s.la s.lb then s.readByte (s.a + i) ^^^ s.readByte (s.b + i) else s.readByte (s.a + i)

/-- The bytes XOR's loop reads in iteration i are those before the command. -/
theorem xorByte_of_written {s t : State} (hapart : XorApart s) {i : Nat} (hi : i < s.la)
    (h : Written s s.d (xorOut s) i t) :
    xorByte s.a s.b s.d s.keyLen i t = t.writeByte (s.d + i) (xorOut s i) := by
  obtain ⟨hdata, hkey⟩ := hapart
  rw [xorByte, xorOut, State.keyLen, readByte_source_of_written hdata hi hi h]
  split_ifs with hm
  · rw [readByte_source_of_written hkey hi hm h]
  · rfl

/-- XOR's effect writes `xorOut` to the destination and no other byte (R172). -/
theorem written_xorEffect {s : State} (hapart : XorApart s) : Written s s.d (xorOut s) s.la s.xorEffect := by
  refine forUp_invariant (Written s s.d (xorOut s)) s.la (written_zero _ _ fun _ => rfl) fun i t hi h => ?_
  rw [xorByte_of_written hapart hi h]
  exact written_writeByte h

/-- XOR keeps STATE, OBIT, SEED, SEEDCTL and every register of the host. -/
theorem xorEffect_keeps (s : State) :
    s.xorEffect.state = s.state ∧ s.xorEffect.obit = s.obit ∧ SeedKept s s.xorEffect ∧
      HostRegistersKept s s.xorEffect := by
  rw [xorEffect_eq]
  simp [SeedKept, HostRegistersKept]

/-! ## The command (R172) -/

/-- XOR's checks pass exactly when its regions and its key length are as required. -/
theorem xor_checks_pass_iff (s : State) : (∀ c ∈ checksOf s .xor, c.1 = true) ↔ XorOk s := by
  simp [checksOf, XorOk, XorInside, XorApart, State.keyLen, and_assoc]

/-- XOR whose checks pass has its effect and completes with ERR = 0. -/
theorem exec_xor_of_xorOk {s : State} (hok : XorOk s) : exec .xor s = .next (s.xorEffect.complete .none) :=
  exec_of_checks_pass ((xor_checks_pass_iff s).mpr hok)

/-- XOR that ends with ERR = 0 has written `xorOut` to its destination, and has changed nothing else but the completion
fields. -/
theorem xor_success {s t : State} (hexec : exec .xor s = .next t) (herr : t.err = .none) :
    Written s s.d (xorOut s) s.la t ∧ t.state = s.state ∧ t.obit = s.obit ∧ SeedKept s t ∧ HostRegistersKept s t := by
  obtain ⟨hpass, rfl⟩ := exec_success hexec herr
  obtain ⟨-, hapart, -⟩ := (xor_checks_pass_iff s).mp hpass
  exact ⟨written_xorEffect hapart, xorEffect_keeps s⟩

/-! ## The statements -/

/-- Settles O45: XOR's two overlap checks act as one, and its loop reads no byte it has written. -/
theorem xorTransforms : Obligations.XorTransforms := by
  refine ⟨decodeWord_encode (i := .xor) rfl, fun s => ⟨?_, fun hok => ?_⟩⟩
  · refine failsInOrder_of_firstError (firstError_cons_congr _ (firstError_cons_cons_same_code _ _ _ _)) ?_
    simp [XorInside, XorApart, State.keyLen]
  · have hexec := exec_xor_of_xorOk hok
    obtain ⟨hbytes, hkept⟩ := xor_success hexec rfl
    exact ⟨_, hexec, completed_complete _ _, fun i hi => readByte_of_written hbytes hi,
      memKeptOutside_of_written hbytes, hkept⟩

/-- Settles O52: the second XOR meets each byte of the first one's destination with the same key byte, and the two
cancel; past the key both pass the byte through. -/
theorem xorTwiceRestoresData : Obligations.XorTwiceRestoresData := by
  intro s t r u d2 hexec herr hkey hr hexec2 herr2 i hi
  obtain ⟨hfirst, -, -, -, hregs⟩ := xor_success hexec herr
  obtain ⟨hsecond, -⟩ := xor_success hexec2 herr2
  have hops : r.la = s.la ∧ r.lb = s.lb ∧ r.a = s.d ∧ r.b = s.b ∧ r.d = d2.toNat := by
    simp [hr, State.la, State.lb, State.a, State.b, State.d, hregs]
  obtain ⟨hla, hlb, ha, hb, hd⟩ := hops
  have hmem (x : Nat) : r.readByte x = t.readByte x := readByte_congr (by rw [hr]) (by rw [hr]) x
  rw [hla, hd] at hsecond
  rw [readByte_of_written hsecond hi, xorOut, hla, hlb, ha, hb, hmem, hmem, readByte_of_written hfirst hi, xorOut]
  split_ifs with hm
  · rw [hkey i hm, BitVec.xor_assoc, BitVec.xor_self, BitVec.xor_zero]
  · rfl

/-- The bits of a unit above bit 0 are 0 (R97). -/
theorem getLsbD_unit_of_pos {v : Byte} (hunit : v = 0 ∨ v = 1) {j : Nat} (hj : 1 ≤ j) : v.getLsbD j = false := by
  rcases hunit with rfl | rfl
  · simp
  · simp [show j ≠ 0 by omega]

/-- Settles O53: a unit has no bit above bit 0, so that the exclusive-or keeps those of the data. -/
theorem unitKeyChangesBitZeroOnly : Obligations.UnitKeyChangesBitZeroOnly := by
  intro s hok hunits
  have hexec := exec_xor_of_xorOk hok
  obtain ⟨hbytes, -⟩ := xor_success hexec rfl
  refine ⟨_, hexec, fun i hi => ?_⟩
  rw [readByte_of_written hbytes hi, xorOut]
  split_ifs with hm
  · refine ⟨fun j hj => ?_, ?_⟩
    · rw [BitVec.getLsbD_xor, getLsbD_unit_of_pos (hunits i hm) hj, Bool.xor_false]
    · rw [BitVec.getLsbD_xor, decide_eq_true hm, Bool.true_and]
  · exact ⟨fun j _ => rfl, by rw [decide_eq_false hm, Bool.false_and, Bool.xor_false]⟩

end Sys2Proof.Machine
end

section
/-! PROOFS. CRYPT: its errors in order, its effect and its frame, CRYPT as GEN followed by XOR, and CRYPT applied twice
(R175 to R177). -/

namespace Sys2Proof.Machine

open Sys2Proof.Safety

/-! ## The bytes CRYPT writes, and the generator's registers (R175) -/

/-- Byte i of CRYPT's destination, of the bytes before the command (R175). -/
def cryptOut (s : State) (i : Nat) : Byte := s.readByte (s.a + i) ^^^ unitByte (unitAt s i)

/-- Completion leaves the generator as it is. -/
theorem emitted_complete {s t : State} {i : Nat} (h : Emitted s i t) (code : ErrCode) :
    Emitted s i (t.complete code) := ⟨h.len, h.taps, h.state, h.obit⟩

/-- CRYPT's effect emits LEN_A units and writes each data byte xor its unit, and no other byte (R175). -/
theorem cryptEffect_spec {s : State} (hapart : AlignedOrDisjoint s.d s.la s.a s.la) :
    Emitted s s.la s.cryptEffect ∧ Written s s.d (cryptOut s) s.la s.cryptEffect := by
  refine forUp_invariant (fun i t => Emitted s i t ∧ Written s s.d (cryptOut s) i t) s.la
    ⟨emitted_loadSeed s, written_zero _ _ (readByte_loadSeed s)⟩ fun i t hi ht => ?_
  obtain ⟨hgen, hbytes⟩ := ht
  rw [cryptByte, emit_obit_of_emitted hgen, readByte_source_of_written hapart hi hi hbytes]
  exact ⟨emitted_writeByte (emitted_emit hgen) _ _, written_writeByte (t := t.emit) hbytes⟩

/-- CRYPT keeps SEED, SEEDCTL and every register of the host. -/
theorem cryptEffect_keeps (s : State) : SeedKept s s.cryptEffect ∧ HostRegistersKept s s.cryptEffect := by
  rw [cryptEffect_eq]
  simp [SeedKept, HostRegistersKept]

/-! ## The commands that use the generator (R153, R175) -/

/-- CRYPT's checks pass exactly when the generator's conditions hold and its regions are as required. -/
theorem crypt_checks_pass_iff (s : State) : (∀ c ∈ checksOf s .crypt, c.1 = true) ↔ CryptOk s := by
  simp [checksOf, CryptOk, GeneratorOk, SeedUsable, CryptInside, and_assoc]

/-- CRYPT whose checks pass has its effect and completes with ERR = 0. -/
theorem exec_crypt_of_cryptOk {s : State} (hok : CryptOk s) :
    exec .crypt s = .next (s.cryptEffect.complete .none) :=
  exec_of_checks_pass ((crypt_checks_pass_iff s).mpr hok)

/-- CRYPT that ends with ERR = 0 has emitted LEN_A units and written `cryptOut` to its destination, and has changed
nothing else but the completion fields. -/
theorem crypt_success {s t : State} (hexec : exec .crypt s = .next t) (herr : t.err = .none) :
    Emitted s s.la t ∧ Written s s.d (cryptOut s) s.la t ∧ SeedKept s t ∧ HostRegistersKept s t := by
  obtain ⟨hpass, rfl⟩ := exec_success hexec herr
  obtain ⟨-, -, hapart⟩ := (crypt_checks_pass_iff s).mp hpass
  obtain ⟨hgen, hbytes⟩ := cryptEffect_spec hapart
  exact ⟨emitted_complete hgen _, hbytes, cryptEffect_keeps s⟩

/-- GEN that ends with ERR = 0 has emitted LEN_A units and written them to its destination, and has changed nothing else
but the completion fields. -/
theorem gen_success {s t : State} (hexec : exec .gen s = .next t) (herr : t.err = .none) :
    Emitted s s.la t ∧ Written s s.d (fun i => unitByte (unitAt s i)) s.la t ∧ SeedKept s t ∧ HostRegistersKept s t := by
  obtain ⟨-, rfl⟩ := exec_success hexec herr
  obtain ⟨hgen, hbytes⟩ := genLoop_spec s s.la
  exact ⟨emitted_complete hgen _, hbytes, genEffect_keeps s⟩

/-! ## The statements -/

/-- Settles O46: CRYPT's checks come in the order of its rule, and its loop reads no byte it has written. -/
theorem cryptXorsKeystream : Obligations.CryptXorsKeystream := by
  refine ⟨decodeWord_encode (i := .crypt) rfl, fun s => ⟨?_, fun hok => ?_⟩⟩
  · exact failsInOrder_of_firstError (cs := checksOf s .crypt) rfl (by simp [checksOf, CryptInside])
  · have hexec := exec_crypt_of_cryptOk hok
    obtain ⟨hgen, hbytes, hkept⟩ := crypt_success hexec rfl
    exact ⟨_, hexec, completed_complete _ _, fun i hi => readByte_of_written hbytes hi, hgen.state, hgen.obit,
      memKeptOutside_of_written hbytes, hkept⟩

/-- Settles O54: GEN leaves in the scratch region the units CRYPT uses, and the data as it was; XOR then writes the bytes
of CRYPT and touches neither STATE nor OBIT. -/
theorem cryptEqualsGenThenXor : Obligations.CryptEqualsGenThenXor := by
  intro s v g t r u f hcrypt hverr hg hgen hterr hdata hdest hr hxor huerr
  subst hg
  obtain ⟨hvgen, hv, -⟩ := crypt_success hcrypt hverr
  obtain ⟨htgen, hscratch, -, hregs⟩ := gen_success hgen hterr
  obtain ⟨hu, hstate, hobit, -⟩ := xor_success hxor huerr
  have ht : Written s f.toNat (fun i => unitByte (unitAt s i)) s.la t := hscratch
  have hops : r.la = s.la ∧ r.lb = s.la ∧ r.a = s.a ∧ r.b = f.toNat ∧ r.d = s.d := by
    simp [hr, State.la, State.lb, State.a, State.b, State.d, hregs]
  obtain ⟨hla, hlb, ha, hb, hd⟩ := hops
  have hmem (x : Nat) : r.readByte x = t.readByte x := readByte_congr (by rw [hr]) (by rw [hr]) x
  have hout : ∀ i < s.la, xorOut r i = cryptOut s i := by
    intro i hi
    have hsource : t.readByte (s.a + i) = s.readByte (s.a + i) := memKeptOutside_of_written ht _ (by omega)
    rw [xorOut, hla, hlb, min_self, if_pos hi, hmem, hmem, ha, hb, hsource, readByte_of_written ht hi, cryptOut]
  rw [hla, hd] at hu
  have hsame (x : Nat) (hx : x < f.toNat ∨ f.toNat + s.la ≤ x) : v.readByte x = u.readByte x :=
    (readByte_eq_of_written hv hu hout ((hmem x).trans (memKeptOutside_of_written ht x hx))).symm
  refine ⟨fun i hi => hsame _ (by omega), hsame, ?_, ?_⟩
  · rw [hstate, hr]
    exact hvgen.state.trans htgen.state.symm
  · rw [hobit, hr]
    exact hvgen.obit.trans htgen.obit.symm

/-- Settles O55: the registers of the generator are kept, so that the second CRYPT meets each byte with the same unit. -/
theorem cryptTwiceRestoresData : Obligations.CryptTwiceRestoresData := by
  intro s t r u d2 hexec herr hr hexec2 herr2 i hi
  obtain ⟨-, hfirst, hseeds, hregs⟩ := crypt_success hexec herr
  obtain ⟨-, hsecond, -⟩ := crypt_success hexec2 herr2
  have hops : r.la = s.la ∧ r.a = s.d ∧ r.d = d2.toNat := by
    simp [hr, State.la, State.a, State.d, hregs]
  obtain ⟨hla, ha, hd⟩ := hops
  have hunit : unitAt r i = unitAt s i := by simp [unitAt, hr, hseeds, hregs]
  have hmem : r.readByte (s.d + i) = t.readByte (s.d + i) := readByte_congr (by rw [hr]) (by rw [hr]) _
  rw [hla, hd] at hsecond
  rw [readByte_of_written hsecond hi, cryptOut, ha, hunit, hmem, readByte_of_written hfirst hi, cryptOut,
    BitVec.xor_assoc, BitVec.xor_self, BitVec.xor_zero]

end Sys2Proof.Machine
end

section
/-! PROOFS. UNPACK and PACK: their errors in order, their effects and their frames, and the two orders of using one
after the other (R98, R191 to R193). -/

namespace Sys2Proof.Machine

open Sys2Proof.Safety

/-! ## Units and bytes (R97, R98) -/

/-- Bit 0 of a unit is the bit it stands for (R97). -/
@[simp] theorem getLsbD_zero_unitByte (b : Bool) : (unitByte b).getLsbD 0 = b := by cases b <;> rfl

/-- The unit of a bit is 0x00 or 0x01 (R97). -/
theorem unitByte_eq_zero_or_one (b : Bool) : unitByte b = 0 ∨ unitByte b = 1 := by
  cases b
  · exact .inl rfl
  · exact .inr rfl

/-- A unit is the unit of its own bit 0 (R97). -/
theorem unitByte_getLsbD_zero {v : Byte} (hunit : v = 0 ∨ v = 1) : unitByte (v.getLsbD 0) = v := by
  rcases hunit with rfl | rfl <;> rfl

/-- Two bytes that agree from bit 7 down are equal. -/
theorem byte_eq_of_msbFirst {v w : Byte} (h : ∀ k < 8, v.getLsbD (7 - k) = w.getLsbD (7 - k)) : v = w := by
  refine BitVec.eq_of_getLsbD_eq fun j hj => ?_
  have hbit := h (7 - j) (by omega)
  rwa [Nat.sub_sub_self (by omega)] at hbit

/-! ## Commands that write MEM alone to a region disjoint from their source -/

/-- A byte of a source disjoint from the destination reads as before the command, however many bytes are written
(R128). -/
theorem readByte_source_of_disjoint {s t : State} {d m p n i j : Nat} {out : Nat → Byte}
    (hdisjoint : ¬ Overlap d m p n) (hi : i < n) (hj : j ≤ m) (h : Written s d out j t) :
    t.readByte (p + i) = s.readByte (p + i) :=
  memKeptOutside_of_written h _ (by omega)

/-- What changes MEM alone keeps STATE, OBIT, SEED, SEEDCTL and every register of the host. -/
theorem keeps_of_eq_with_mem {s t : State} (h : t = { s with mem := t.mem }) :
    t.state = s.state ∧ t.obit = s.obit ∧ SeedKept s t ∧ HostRegistersKept s t := by
  rw [h]
  simp [SeedKept, HostRegistersKept]

/-! ## UNPACK (R191) -/

/-- Byte m of UNPACK's destination, of the bytes before the command: unit m, most significant bit first (R191). -/
def unpackOut (s : State) (m : Nat) : Byte := unitByte ((s.readByte (s.a + m / 8)).getLsbD (7 - m % 8))

/-- Unit 8i + k is bit 7 - k of source byte i (R191). -/
theorem unpackOut_eq (s : State) (i : Nat) {k : Nat} (hk : k < 8) :
    unpackOut s (8 * i + k) = unitByte ((s.readByte (s.a + i)).getLsbD (7 - k)) := by
  rw [unpackOut, show (8 * i + k) / 8 = i by omega, show (8 * i + k) % 8 = k by omega]

/-- Iteration (i, k) of UNPACK writes the next unit after the 8i + k written before it. -/
theorem written_unpackBit {s t : State} (hdisjoint : ¬ Overlap s.d (8 * s.la) s.a s.la) {i k : Nat} (hi : i < s.la)
    (hk : k < 8) (h : Written s s.d (unpackOut s) (8 * i + k) t) :
    Written s s.d (unpackOut s) (8 * i + (k + 1)) (unpackBit s.a s.d i k t) := by
  rw [unpackBit, readByte_source_of_disjoint hdisjoint hi (by omega) h, ← unpackOut_eq s i hk, Nat.add_assoc]
  exact written_writeByte h

/-- UNPACK's effect writes `unpackOut` to the destination and no other byte (R191). -/
theorem written_unpackEffect {s : State} (hdisjoint : ¬ Overlap s.d (8 * s.la) s.a s.la) :
    Written s s.d (unpackOut s) (8 * s.la) s.unpackEffect := by
  refine forUp_invariant (fun i => Written s s.d (unpackOut s) (8 * i)) s.la (written_zero _ _ fun _ => rfl)
    fun i t hi h => ?_
  exact forUp_invariant (fun k => Written s s.d (unpackOut s) (8 * i + k)) 8 h
    fun k u hk hu => written_unpackBit hdisjoint hi hk hu

/-- UNPACK's checks pass exactly when its regions are as required. -/
theorem unpack_checks_pass_iff (s : State) : (∀ c ∈ checksOf s .unpack, c.1 = true) ↔ UnpackOk s := by
  simp [checksOf, UnpackOk, UnpackInside]

/-- UNPACK whose checks pass has its effect and completes with ERR = 0. -/
theorem exec_unpack_of_unpackOk {s : State} (hok : UnpackOk s) :
    exec .unpack s = .next (s.unpackEffect.complete .none) :=
  exec_of_checks_pass ((unpack_checks_pass_iff s).mpr hok)

/-- UNPACK that ends with ERR = 0 has written `unpackOut` to its destination, and has changed nothing else but the
completion fields. -/
theorem unpack_success {s t : State} (hexec : exec .unpack s = .next t) (herr : t.err = .none) :
    Written s s.d (unpackOut s) (8 * s.la) t ∧ t.state = s.state ∧ t.obit = s.obit ∧ SeedKept s t ∧
      HostRegistersKept s t := by
  obtain ⟨hpass, rfl⟩ := exec_success hexec herr
  obtain ⟨-, hdisjoint⟩ := (unpack_checks_pass_iff s).mp hpass
  have hkept := keeps_of_eq_with_mem (unpackEffect_eq s)
  exact ⟨written_unpackEffect hdisjoint, hkept⟩

/-! ## PACK (R192) -/

/-- A bit put at place m of a byte leaves the other bits. -/
theorem getLsbD_or_ofBool_shiftLeft (v : Byte) (b : Bool) {m j : Nat} (hj : j < 8) :
    (v ||| ((BitVec.ofBool b).setWidth 8 <<< m)).getLsbD j = (v.getLsbD j || (decide (j = m) && b)) := by
  rw [BitVec.getLsbD_or, BitVec.getLsbD_shiftLeft, BitVec.getLsbD_setWidth, BitVec.getLsbD_ofBool]
  by_cases hm : j = m
  · simp [hm, hm ▸ hj]
  · by_cases hlow : j < m
    · simp [hm, hlow]
    · simp [hm, show ¬ j - m = 0 by omega]

/-- Bit 7 - k of packed byte j is unit 8j + k, and 0 where there is no such unit (R192). -/
theorem getLsbD_packedByte (s : State) (a la j : Nat) {k : Nat} (hk : k < 8) :
    (s.packedByte a la j).getLsbD (7 - k) =
      (decide (8 * j + k < la) && (s.readByte (a + (8 * j + k))).getLsbD 0) := by
  have hloop : (s.packedByte a la j).getLsbD (7 - k) =
      (decide (k < 8) && (decide (8 * j + k < la) && (s.readByte (a + (8 * j + k))).getLsbD 0)) := by
    refine forUp_invariant
      (fun i (v : Byte) => v.getLsbD (7 - k) =
        (decide (k < i) && (decide (8 * j + k < la) && (s.readByte (a + (8 * j + k))).getLsbD 0)))
      8 (by simp) fun i v hi hv => ?_
    by_cases hik : k = i
    · subst hik
      rw [← Nat.add_assoc] at hv ⊢
      split_ifs with hla
      · rw [getLsbD_or_ofBool_shiftLeft _ _ (by omega), hv]
        simp [hla]
      · rw [hv]
        simp [hla]
    · rw [show decide (k < i + 1) = decide (k < i) from decide_eq_decide.mpr (by omega), ← hv]
      split_ifs with hla
      · rw [getLsbD_or_ofBool_shiftLeft _ _ (by omega), decide_eq_false (by omega), Bool.false_and, Bool.or_false]
      · rfl
  rwa [decide_eq_true hk, Bool.true_and] at hloop

/-- A packed byte depends on the units alone. -/
theorem packedByte_congr {s t : State} {a la : Nat} (h : ∀ i < la, t.readByte (a + i) = s.readByte (a + i))
    (j : Nat) : t.packedByte a la j = s.packedByte a la j := by
  refine byte_eq_of_msbFirst fun k hk => ?_
  rw [getLsbD_packedByte t a la j hk, getLsbD_packedByte s a la j hk]
  by_cases hunit : 8 * j + k < la
  · rw [h _ hunit]
  · simp [hunit]

/-- PACK's effect writes the packed units to the destination and no other byte (R192). -/
theorem written_packEffect {s : State} (hdisjoint : ¬ Overlap s.d s.packLen s.a s.la) :
    Written s s.d (s.packedByte s.a s.la) s.packLen s.packEffect := by
  refine forUp_invariant (Written s s.d (s.packedByte s.a s.la)) s.packLen (written_zero _ _ fun _ => rfl)
    fun j t hj h => ?_
  rw [packByte, packedByte_congr (fun i hi => readByte_source_of_disjoint hdisjoint hi hj.le h) j]
  exact written_writeByte h

/-- PACK's checks pass exactly when its regions are as required and its source holds units only. -/
theorem pack_checks_pass_iff (s : State) : (∀ c ∈ checksOf s .pack, c.1 = true) ↔ PackOk s := by
  simp [checksOf, PackOk, PackInside, State.packLen]

/-- PACK whose checks pass has its effect and completes with ERR = 0. -/
theorem exec_pack_of_packOk {s : State} (hok : PackOk s) : exec .pack s = .next (s.packEffect.complete .none) :=
  exec_of_checks_pass ((pack_checks_pass_iff s).mpr hok)

/-- PACK that ends with ERR = 0 has found units only, has written them packed to its destination, and has changed
nothing else but the completion fields. -/
theorem pack_success {s t : State} (hexec : exec .pack s = .next t) (herr : t.err = .none) :
    UnitsOnly s s.a s.la ∧ Written s s.d (s.packedByte s.a s.la) ((s.la + 7) / 8) t ∧ t.state = s.state ∧
      t.obit = s.obit ∧ SeedKept s t ∧ HostRegistersKept s t := by
  obtain ⟨hpass, rfl⟩ := exec_success hexec herr
  obtain ⟨-, hdisjoint, hunits⟩ := (pack_checks_pass_iff s).mp hpass
  have hkept := keeps_of_eq_with_mem (packEffect_eq s)
  exact ⟨hunits, written_packEffect hdisjoint, hkept⟩

/-! ## One after the other (R193) -/

/-- Units that are those of the bits of a byte string, most significant bit first, pack into that string. -/
theorem packedByte_of_units {s r : State} {i : Nat} (hi : i < s.la)
    (h : ∀ m < 8 * s.la, r.readByte (r.a + m) = unpackOut s m) :
    r.packedByte r.a (8 * s.la) i = s.readByte (s.a + i) := by
  refine byte_eq_of_msbFirst fun k hk => ?_
  have hunit : 8 * i + k < 8 * s.la := by omega
  rw [getLsbD_packedByte r _ _ i hk, h _ hunit, unpackOut_eq s i hk, getLsbD_zero_unitByte, decide_eq_true hunit,
    Bool.true_and]

/-- Unit m of a packed string is unit m of the units packed, or 0x00 past the last of them. -/
theorem unpackOut_of_packed {s r : State} {m : Nat} (hunits : UnitsOnly s s.a s.la)
    (h : r.readByte (r.a + m / 8) = s.packedByte s.a s.la (m / 8)) :
    unpackOut r m = if m < s.la then s.readByte (s.a + m) else 0x00 := by
  rw [unpackOut, h, getLsbD_packedByte s _ _ _ (by omega), Nat.div_add_mod]
  split_ifs with hm
  · rw [decide_eq_true hm, Bool.true_and, unitByte_getLsbD_zero (hunits m hm)]
  · rw [decide_eq_false hm, Bool.false_and]
    rfl

/-! ## The statements -/

/-- Settles O47: UNPACK's checks come in the order of its rule, and its loops read no byte they have written. -/
theorem unpackIsMsbFirst : Obligations.UnpackIsMsbFirst := by
  refine ⟨decodeWord_encode (i := .unpack) rfl, fun s => ⟨?_, fun hok => ?_⟩⟩
  · exact failsInOrder_of_firstError (cs := checksOf s .unpack) rfl (by simp [checksOf, UnpackInside])
  · have hexec := exec_unpack_of_unpackOk hok
    obtain ⟨hbytes, hkept⟩ := unpack_success hexec rfl
    refine ⟨_, hexec, completed_complete _ _, fun i hi k hk => ?_, memKeptOutside_of_written hbytes, hkept⟩
    rw [Nat.add_assoc, readByte_of_written hbytes (by omega), unpackOut_eq s i hk, unitByte]

/-- Settles O48: PACK's checks come in the order of its rule, and its loop reads no byte it has written. -/
theorem packIsMsbFirst : Obligations.PackIsMsbFirst := by
  refine ⟨decodeWord_encode (i := .pack) rfl, fun s => ⟨?_, fun hok => ?_⟩⟩
  · exact failsInOrder_of_firstError (cs := checksOf s .pack) rfl (by simp [checksOf, PackInside, State.packLen])
  · have hexec := exec_pack_of_packOk hok
    obtain ⟨-, hbytes, hkept⟩ := pack_success hexec rfl
    refine ⟨_, hexec, completed_complete _ _, fun j hj k hk => ?_, memKeptOutside_of_written hbytes, hkept⟩
    rw [readByte_of_written hbytes hj, getLsbD_packedByte s _ _ j hk]

/-- Settles O56: what UNPACK writes are units, which PACK gathers in the order UNPACK spread them; what PACK writes has
zero bits past the last unit, which UNPACK turns into zero units. -/
theorem conversionRoundTrips : Obligations.ConversionRoundTrips := by
  refine ⟨fun s t r n e hexec herr hn hr hinside hdisjoint => ?_, fun s t r n e hexec herr hn hr hok => ?_⟩
  · obtain ⟨hfirst, -⟩ := unpack_success hexec herr
    have hla : r.la = 8 * s.la := by rw [hr, ← hn]; rfl
    have hunit : ∀ m < 8 * s.la, r.readByte (r.a + m) = unpackOut s m := by
      intro m hm
      rw [hr]
      exact readByte_of_written hfirst hm
    have hunits : UnitsOnly r r.a r.la := by
      intro m hm
      rw [hunit m (hla ▸ hm)]
      exact unitByte_eq_zero_or_one _
    have hpack := exec_pack_of_packOk ⟨hinside, hdisjoint, hunits⟩
    obtain ⟨-, hsecond, -⟩ := pack_success hpack rfl
    refine ⟨_, hpack, rfl, fun i hi => ?_⟩
    have hd : r.d = e.toNat := by rw [hr]; rfl
    rw [← hd, readByte_of_written hsecond (by omega), hla, packedByte_of_units hi hunit]
  · obtain ⟨hunits, hfirst, -⟩ := pack_success hexec herr
    have hla : r.la = n.toNat := by rw [hr]; rfl
    have hd : r.d = e.toNat := by rw [hr]; rfl
    have hunpack := exec_unpack_of_unpackOk hok
    obtain ⟨hsecond, -⟩ := unpack_success hunpack rfl
    refine ⟨_, hunpack, rfl, fun m hm => ?_⟩
    have hpacked : r.readByte (r.a + m / 8) = s.packedByte s.a s.la (m / 8) := by
      rw [hr]
      exact readByte_of_written hfirst (by omega)
    rw [← hd, readByte_of_written hsecond (by omega), unpackOut_of_packed hunits hpacked]

end Sys2Proof.Machine
end

section
/-! PROOFS. The error codes: their numbers, and for each the commands that raise it and the cause (R210). -/

namespace Sys2Proof.Machine

open Sys2Proof.Safety

/-- The row of R210 for a code: the command is one the row names, and the row's cause holds in the state. ERR = 0 is no
error, and its row asks nothing. -/
def ErrorRow (s : State) (i : Instr) : ErrCode → Prop
  | .none => True
  | .seedLen => i ∈ [Instr.load, .gen, .crypt] ∧ s.cnt ≠ s.len
  | .seedChar => i ∈ [Instr.load, .gen, .crypt] ∧ s.bad = true
  | .lenRange => i ∈ [Instr.load, .step, .gen, .crypt] ∧ (s.len.toNat = 0 ∨ 64 < s.len.toNat)
  | .tapRange => i ∈ [Instr.step, .gen, .crypt] ∧ ∃ j, s.len.toNat ≤ j ∧ s.taps.getLsbD j = true
  | .keyLen => i = .xor ∧ ¬ KeyAccepted s
  | .range =>
    (i = .gen ∧ ¬ Inside s s.d s.la) ∨ (i = .xor ∧ ¬ XorInside s) ∨ (i = .crypt ∧ ¬ CryptInside s) ∨
      (i = .unpack ∧ ¬ UnpackInside s) ∨ (i = .pack ∧ ¬ PackInside s)
  | .overlap =>
    (i = .xor ∧ ¬ XorApart s) ∨ (i = .crypt ∧ ¬ AlignedOrDisjoint s.d s.la s.a s.la) ∨
      (i = .unpack ∧ Overlap s.d (8 * s.la) s.a s.la) ∨
      (i = .pack ∧ Overlap s.d ((s.la + 7) / 8) s.a s.la)
  | .badUnit => i = .pack ∧ ¬ UnitsOnly s s.a s.la
  | .badCmd => ∃ w, i = .reserved w

/-! ## The checks of the generator (R126, R143, R144) -/

section
variable {s : State} {i : Instr}

/-- A failing LEN check is a LEN of 0 or above 64 (R126). -/
theorem errorRow_lenCheck (hi : i ∈ [Instr.load, .step, .gen, .crypt]) (hfail : ¬ s.lenCheck.1 = true) :
    ErrorRow s i .lenRange := by
  rw [lenCheck_pass] at hfail
  exact ⟨hi, by omega⟩

/-- A failing character check is BAD = 1 (R143). -/
theorem errorRow_seedCharCheck (hi : i ∈ [Instr.load, .gen, .crypt]) (hfail : ¬ s.seedCharCheck.1 = true) :
    ErrorRow s i .seedChar :=
  ⟨hi, by simpa only [seedCharCheck_pass, Bool.not_eq_false] using hfail⟩

/-- A failing count check is a CNT that differs from R (R143). -/
theorem errorRow_seedLenCheck (hi : i ∈ [Instr.load, .gen, .crypt]) (hfail : ¬ s.seedLenCheck.1 = true) :
    ErrorRow s i .seedLen :=
  ⟨hi, (seedLenCheck_pass s).not.mp hfail⟩

/-- A failing tap check is a tap above R (R144). -/
theorem errorRow_tapCheck (hi : i ∈ [Instr.step, .gen, .crypt]) (hfail : ¬ s.tapCheck.1 = true) :
    ErrorRow s i .tapRange :=
  ⟨hi, (not_tapsLegal_iff s).mp ((tapCheck_pass s).not.mp hfail)⟩

end

/-! ## Every check of every command -/

/-- A failing check of disjointness is an overlap (R128). -/
theorem overlap_of_failing_disjoint {p m q n : Nat}
    (hfail : ¬ (overlapCheck (Region.disjoint ⟨p, m⟩ ⟨q, n⟩)).1 = true) : Overlap p m q n := by
  rwa [overlapCheck_pass, disjoint_iff, not_not] at hfail

/-- A check of a command that fails makes its code's row hold (R210). -/
theorem errorRow_of_failing_check {s : State} {i : Instr} :
    ∀ c ∈ checksOf s i, ¬ c.1 = true → ErrorRow s i c.2 := by
  cases i with
  | nop => exact List.forall_mem_nil _
  | seedclr => exact List.forall_mem_nil _
  | reserved w => exact List.forall_mem_singleton.mpr fun _ => ⟨w, rfl⟩
  | load =>
    simp only [checksOf, List.forall_mem_cons]
    exact ⟨errorRow_lenCheck (by decide), errorRow_seedCharCheck (by decide), errorRow_seedLenCheck (by decide),
      List.forall_mem_nil _⟩
  | step =>
    simp only [checksOf, List.forall_mem_cons]
    exact ⟨errorRow_lenCheck (by decide), errorRow_tapCheck (by decide), List.forall_mem_nil _⟩
  | gen =>
    simp only [checksOf, List.forall_mem_cons]
    refine ⟨errorRow_lenCheck (by decide), errorRow_seedCharCheck (by decide), errorRow_seedLenCheck (by decide),
      errorRow_tapCheck (by decide), fun hrange => ?_, List.forall_mem_nil _⟩
    exact .inl ⟨rfl, fun hin => hrange (by simpa using hin)⟩
  | crypt =>
    simp only [checksOf, List.forall_mem_cons]
    refine ⟨errorRow_lenCheck (by decide), errorRow_seedCharCheck (by decide), errorRow_seedLenCheck (by decide),
      errorRow_tapCheck (by decide), fun hrange => ?_, fun hoverlap => ?_, List.forall_mem_nil _⟩
    · exact .inr (.inr (.inl ⟨rfl, fun hin => hrange (by simpa [CryptInside] using hin)⟩))
    · exact .inr (.inl ⟨rfl, fun hapart => hoverlap (by simpa using hapart)⟩)
  | xor =>
    simp only [checksOf, List.forall_mem_cons]
    refine ⟨fun hrange => ?_, fun hdata => ?_, fun hkey => ?_, fun hlen => ?_, List.forall_mem_nil _⟩
    · exact .inr (.inl ⟨rfl, fun hin => hrange (by simpa [XorInside] using hin)⟩)
    · exact .inl ⟨rfl, fun ⟨hapart, _⟩ => hdata (by simpa using hapart)⟩
    · exact .inl ⟨rfl, fun ⟨_, hapart⟩ => hkey (by simpa [State.keyLen] using hapart)⟩
    · exact ⟨rfl, (keyCheck_pass s).not.mp hlen⟩
  | unpack =>
    simp only [checksOf, List.forall_mem_cons]
    refine ⟨fun hrange => ?_, fun hoverlap => ?_, List.forall_mem_nil _⟩
    · exact .inr (.inr (.inr (.inl ⟨rfl, fun hin => hrange (by simpa [UnpackInside] using hin)⟩)))
    · exact .inr (.inr (.inl ⟨rfl, overlap_of_failing_disjoint hoverlap⟩))
  | pack =>
    simp only [checksOf, List.forall_mem_cons]
    refine ⟨fun hrange => ?_, fun hoverlap => ?_, fun hunits => ?_, List.forall_mem_nil _⟩
    · exact .inr (.inr (.inr (.inr ⟨rfl, fun hin => hrange (by simpa [PackInside, State.packLen] using hin)⟩)))
    · exact .inr (.inr (.inr ⟨rfl, overlap_of_failing_disjoint hoverlap⟩))
    · exact ⟨rfl, (unitCheck_pass s _ _).not.mp hunits⟩

/-! ## The statement -/

/-- A command's completion writes a code whose row holds in the state before (R210). -/
theorem errorRow_err {i : Instr} {s t : State} (hexec : exec i s = .next t) : ErrorRow s i t.err := by
  rw [exec_eq_command] at hexec
  rcases command_cases hexec with ⟨c, hfail, rfl⟩ | ⟨-, rfl⟩
  · exact errorRow_of_failing_check _ (firstError_mem hfail) Bool.false_ne_true
  · exact trivial

/-- Settles O32: a command ends in a code only at a check that fails with it, and such a check makes the row hold. -/
theorem errorCodesAndTheirCauses : Obligations.ErrorCodesAndTheirCauses := by
  refine ⟨rfl, fun c => ?_, fun i s t hexec => ?_⟩
  · cases c <;> decide
  · have row {code : ErrCode} (herr : t.err = code) : ErrorRow s i code := herr ▸ errorRow_err hexec
    exact ⟨row, row, row, row, row, row, row, row, row⟩

end Sys2Proof.Machine
end

section
/-! PROOFS. The block right after reset, and the busy filters: commands on empty operands, the step from STATE = 0, what
an access reaches, and what writes do and reads answer while a command is pending (R61, R62, R245 to R247). -/

namespace Sys2Proof.Machine

open Sys2Proof.Safety

/-! ## Commands on empty operands (R127, R128) -/

/-- The empty region is valid at every address (R127). -/
@[simp] theorem inside_zero (s : State) (a : Nat) : Inside s a 0 := .inl rfl

/-- The empty destination overlaps nothing (R128). -/
@[simp] theorem not_overlap_zero (p q n : Nat) : ¬ Overlap p 0 q n := fun ⟨hpos, _⟩ => Nat.lt_irrefl 0 hpos

/-- XOR of no data with no key does nothing but complete, whatever the policy CTRL.KEYCHK. -/
theorem exec_xor_of_empty {s : State} (hla : s.la = 0) (hlb : s.lb = 0) : exec .xor s = .next (s.complete .none) := by
  have hok : XorOk s := by simp [XorOk, XorInside, XorApart, AlignedOrDisjoint, KeyAccepted, hla, hlb]
  rw [exec_xor_of_xorOk hok, State.xorEffect, hla, forUp_zero]

/-- UNPACK of no byte does nothing but complete. -/
theorem exec_unpack_of_empty {s : State} (hla : s.la = 0) : exec .unpack s = .next (s.complete .none) := by
  have hok : UnpackOk s := by simp [UnpackOk, UnpackInside, hla]
  rw [exec_unpack_of_unpackOk hok, State.unpackEffect, hla, forUp_zero]

/-- PACK of no unit does nothing but complete. -/
theorem exec_pack_of_empty {s : State} (hla : s.la = 0) : exec .pack s = .next (s.complete .none) := by
  have hlen : (s.la + 7) / 8 = 0 := by omega
  have hok : PackOk s := by simp [PackOk, PackInside, UnitsOnly, hla]
  rw [exec_pack_of_packOk hok, State.packEffect, State.packLen, hlen, forUp_zero]

/-! ## The generator from STATE = 0 (R145, R151) -/

/-- No bit of 0 is 1, so its parity is 0 (R11). -/
theorem parity_zero : parity 0 = false := by
  unfold parity
  exact forUp_invariant (fun _ (p : Bool) => p = false) 64 rfl (by simp)

/-- The step function keeps the state 0 and emits 0, whatever the taps (R145). -/
theorem lfsrStep_zero (taps : DWord) (len : Nat) : lfsrStep 0 taps len = (false, 0) := by
  have hfeedback : feedback 0 taps len = false := by
    simpa only [feedback, BitVec.ofNat_eq_ofNat, BitVec.zero_and] using parity_zero
  simp only [lfsrStep, hfeedback]
  simp

/-- STEP from STATE = 0 leaves STATE = 0 and emits 0 (R151). -/
theorem exec_step_of_state_zero {s : State} (hok : StepOk s) (hzero : s.state = 0) :
    exec .step s = .next { s with state := 0, obit := false, err := .none, done := true, pend := none } := by
  rw [exec_step_of_stepOk hok, State.emit, hzero, lfsrStep_zero]
  rfl

/-! ## What an access reaches (R24, R61, R62) -/

/-- A register stands at the offset four times its word index (R24). -/
theorem offset_of_regAt {n : Nat} {r : Reg} (h : regAt n = some r) : r.offset.toNat = 4 * n := by
  have hlt : n < 17 := by
    by_contra hge
    obtain ⟨k, rfl⟩ := Nat.exists_eq_add_of_le' (not_lt.mp hge)
    cases h
  interval_cases n <;> (cases h; rfl)

/-- The word indices of the register range are all taken (R24). -/
theorem exists_regAt {n : Nat} (h : n < 17) : ∃ r, regAt n = some r := by
  interval_cases n <;> exact ⟨_, rfl⟩

/-- A 4-byte access at a register's offset is one R61 allows. -/
theorem registerAccess_offset (r : Reg) : RegisterAccess r.offset .b4 := by cases r <;> decide

/-- The register accesses R61 allows are at the offset of a register. -/
theorem exists_offset_eq {o : BitVec 17} {z : Size} (h : RegisterAccess o z) : ∃ r : Reg, o = r.offset := by
  obtain ⟨hlt, -, halign⟩ := h
  obtain ⟨r, hr⟩ := exists_regAt (n := o.toNat / 4) (by omega)
  refine ⟨r, BitVec.eq_of_toNat_eq ?_⟩
  rw [offset_of_regAt hr]
  omega

/-- A register is reached at its own offset with size 4, and no other way (R61). -/
theorem target_eq_reg_iff {s : State} {o : BitVec 17} {z : Size} {r : Reg} :
    s.target o z = some (.reg r) ↔ o = r.offset ∧ z = .b4 := by
  constructor
  · intro h
    unfold State.target at h
    split_ifs at h with hlt hform
    · obtain ⟨hsize, halign⟩ := hform
      obtain ⟨q, hq, hqr⟩ := Option.map_eq_some_iff.mp h
      have hoff := offset_of_regAt (Target.reg.inj hqr ▸ hq)
      exact ⟨BitVec.eq_of_toNat_eq (by omega), hsize⟩
    · cases h
  · rintro ⟨rfl, rfl⟩
    exact target_reg_offset s r

/-- A window access R62 allows reaches MEM. -/
theorem target_of_windowAccess {s : State} {o : BitVec 17} {z : Size} (h : WindowAccess s o z) :
    s.target o z = some (.window (o.toNat - 0x10000)) := by
  obtain ⟨hlow, halign, hin⟩ := h
  rw [State.target, if_neg (by omega), if_neg (by omega), if_pos ⟨halign, hin⟩]

/-- The accesses that reach something are those R61 and R62 allow. -/
theorem target_ne_none_iff (s : State) (o : BitVec 17) (z : Size) :
    s.target o z ≠ none ↔ RegisterAccess o z ∨ WindowAccess s o z := by
  constructor
  · intro h
    obtain ⟨g, hg⟩ := Option.ne_none_iff_exists'.mp h
    cases g with
    | reg r =>
      obtain ⟨rfl, rfl⟩ := target_eq_reg_iff.mp hg
      exact .inl (registerAccess_offset r)
    | window k =>
      obtain ⟨hoff, halign, hin⟩ := target_window hg
      exact .inr ⟨by omega, by rwa [hoff, Nat.add_sub_cancel_left], by omega⟩
  · rintro (hreg | hwin)
    · obtain ⟨r, rfl⟩ := exists_offset_eq hreg
      obtain ⟨-, rfl, -⟩ := hreg
      simp [target_reg_offset]
    · simp [target_of_windowAccess hwin]

/-! ## While a command is pending (R246, R247) -/

/-- A busy write that reaches anything but STATUS only sets OVR (R246). -/
theorem afterBus_write_busy {s : State} {o : BitVec 17} {z : Size} (hbusy : s.pend ≠ none)
    (hreach : s.target o z ≠ none) (hstatus : o ≠ Reg.status.offset) (v : Word) :
    afterBus s (.write o z v) = s.overrun := by
  obtain ⟨g, hg⟩ := Option.ne_none_iff_exists'.mp hreach
  have hne : g ≠ .reg .status := by
    rintro rfl
    exact hstatus (target_eq_reg_iff.mp hg).1
  simp only [afterBus, State.transact, hg, busWrite_busy ((busy_eq_true_iff s).mpr hbusy) hne]

/-- A read at or above 0x10000 gives 0 while busy, whether it reaches MEM or gets BUSERR (R63, R247). -/
theorem transact_read_window_busy {s : State} {o : BitVec 17} (hbusy : s.pend ≠ none) (ho : 0x10000 ≤ o.toNat)
    (z : Size) : (s.transact (.read o z)).2.data = some 0 := by
  cases hg : s.target o z with
  | none => simp only [State.transact, hg]
  | some g =>
    cases g with
    | reg r =>
      obtain ⟨rfl, -⟩ := target_eq_reg_iff.mp hg
      have hlow := (registerAccess_offset r).1
      omega
    | window k => simp only [State.transact, hg, State.busRead, (busy_eq_true_iff s).mpr hbusy, if_true]

/-- STATE reads 0 while busy (R43, R247). -/
theorem stateRead_busy {s : State} (hbusy : s.pend ≠ none) : s.stateRead = 0 :=
  if_pos ((busy_eq_true_iff s).mpr hbusy)

/-- STATUS while busy, with DONE and ERR clear: BUSY, and OVR as it is (R31, R247). -/
theorem statusWord_busy {s : State} (hbusy : s.pend ≠ none) (hdone : s.done = false) (herr : s.err = .none) :
    s.statusWord = if s.ovr then 0x00000005 else 0x00000001 := by
  have hb := (busy_eq_true_iff s).mpr hbusy
  have hobit : s.obitRead = false := by simp [State.obitRead, hb]
  rw [State.statusWord, hb, hdone, hobit, herr]
  cases s.ovr <;> rfl

/-- Every register but STATUS and STATE reads the same whether or not a command is pending (R247). -/
theorem readReg_pend_none (s : State) {r : Reg} (hstatus : r ≠ .status) (hlo : r ≠ .stateLo) (hhi : r ≠ .stateHi) :
    s.readReg r = ({ s with pend := none } : State).readReg r := by
  cases r with
  | status => exact absurd rfl hstatus
  | stateLo => exact absurd rfl hlo
  | stateHi => exact absurd rfl hhi
  | _ => rfl

/-! ## The statements -/

/-- Settles O12: reset leaves a legal LEN with CNT = 0, STATE = 0 and empty operands, and a seed SEEDCLR finds clear. -/
theorem afterResetGeneratorNeedsSeed : Obligations.AfterResetGeneratorNeedsSeed := by
  rintro s t rfl
  have hlen : LenLegal s.assertReset.releaseReset := by simp [LenLegal, State.reset]
  have htaps : TapsLegal s.assertReset.releaseReset := (tapCheck_pass State.reset).mp (by decide)
  have hfails {i : Instr} (hi : i ∈ [Instr.load, .gen, .crypt]) := exec_seedLen hi hlen rfl (len_ne_zero hlen).symm
  exact ⟨rfl, rfl, hfails (by decide), hfails (by decide), hfails (by decide),
    exec_step_of_state_zero ⟨hlen, htaps⟩ rfl, exec_xor_of_empty rfl rfl, exec_unpack_of_empty rfl,
    exec_pack_of_empty rfl, exec_of_checks_pass (i := .nop) (List.forall_mem_nil _),
    exec_of_checks_pass (i := .seedclr) (List.forall_mem_nil _)⟩

/-- Settles O21: a write R61 or R62 allows reaches STATUS at its own offset only; any other write reaches nothing. -/
theorem busyWritesAreIgnored : Obligations.BusyWritesAreIgnored := by
  intro s o z v hbusy
  refine ⟨fun hform hstatus => ?_, ?_, fun hform => ?_⟩
  · exact afterBus_write_busy hbusy ((target_ne_none_iff s o z).mpr hform) hstatus v
  · rintro rfl rfl
    exact congrArg Prod.fst (transact_regWrite s .status v)
  · have hnone : s.target o z = none := not_not.mp ((target_ne_none_iff s o z).not.mpr hform)
    simp only [afterBus, State.transact, hnone]

/-- Settles O22: the invariant clears DONE and ERR while a command is pending; the other reads are the busy filters. -/
theorem busyReadsAreFiltered : Obligations.BusyReadsAreFiltered := by
  intro s hinv hbusy
  obtain ⟨-, -, -, hpending, -⟩ := hinv
  obtain ⟨hdone, herr⟩ := hpending hbusy
  refine ⟨?_, ?_, fun o z ho => transact_read_window_busy hbusy ho z, statusWord_busy hbusy hdone herr,
    fun r => readReg_pend_none s⟩
  · rw [State.readReg, stateRead_busy hbusy]
    rfl
  · rw [State.readReg, stateRead_busy hbusy]
    rfl

end Sys2Proof.Machine
end

section
/-! PROOFS. The byte form of a CMD word, and the decoder and the encoder as inverses (R64, R90 to R92). -/

namespace Sys2Proof

/-- The four bytes of a word, put together most significant first, are the word (R64). -/
theorem append_wordBytes (w : Word) :
    w.extractLsb' 24 8 ++ w.extractLsb' 16 8 ++ w.extractLsb' 8 8 ++ w.extractLsb' 0 8 = w := by
  have hhigh : w.extractLsb' 24 8 ++ w.extractLsb' 16 8 = w.extractLsb' 16 16 :=
    BitVec.extractLsb'_append_extractLsb'_eq_extractLsb' rfl
  have hthree : w.extractLsb' 16 16 ++ w.extractLsb' 8 8 = w.extractLsb' 8 24 :=
    BitVec.extractLsb'_append_extractLsb'_eq_extractLsb' rfl
  have hall : w.extractLsb' 8 24 ++ w.extractLsb' 0 8 = w.extractLsb' 0 32 :=
    BitVec.extractLsb'_append_extractLsb'_eq_extractLsb' rfl
  rw [hhigh, hthree, hall, BitVec.extractLsb'_eq_self]

/-- The decoder reads the word from the front of its bytes and leaves the rest. -/
theorem decodeBytes_wordBytes_append (w : Word) (rest : List Byte) :
    decodeBytes (wordBytes w ++ rest) = .ok (decodeWord w, rest) := by
  simp only [wordBytes, List.cons_append, List.nil_append, decodeBytes, append_wordBytes]

/-- A table word of 32 bits that is the word of a well-formed command decodes to it. -/
theorem decodeTableWord_of_encode {i : Instr} (hwf : i.wf = true) {n : Nat} (hn : (encode i).toNat = n) :
    decodeTableWord 32 n = some i := by
  have hbytes := decodeBytes_wordBytes_append (encode i) []
  rw [List.append_nil, decodeWord_encode hwf] at hbytes
  rw [decodeTableWord, if_pos le_rfl, ← hn, Nat.mod_eq_of_lt (encode i).isLt, BitVec.ofNat_toNat, BitVec.setWidth_eq,
    hbytes]

/-! ## The statements -/

/-- Settles O1: a well-formed command is read back from its word, and the bytes of the word give the word back. -/
theorem decodeInvertsEncode : Obligations.DecodeInvertsEncode := by
  intro i hwf
  have hword := decodeWord_encode hwf
  exact ⟨hword, fun rest => by rw [encodeBytes, decodeBytes_wordBytes_append, hword]⟩

/-- Settles O2: what the decoder answers is well formed and carries the word it was read from. -/
theorem encodeInvertsDecode : Obligations.EncodeInvertsDecode := fun w => ⟨wf_decodeWord w, encode_decodeWord w⟩

/-- Settles O4: each word is the encoding of the well-formed command it is listed with. -/
theorem tableWordsDecode : Obligations.TableWordsDecode :=
  ⟨decodeTableWord_of_encode (i := .nop) rfl rfl, decodeTableWord_of_encode (i := .gen) rfl rfl,
    decodeTableWord_of_encode (i := .xor) rfl rfl, decodeTableWord_of_encode (i := .unpack) rfl rfl,
    decodeTableWord_of_encode (i := .pack) rfl rfl, decodeTableWord_of_encode (i := .step) rfl rfl,
    decodeTableWord_of_encode (i := .crypt) rfl rfl, decodeTableWord_of_encode (i := .reserved 0x9) rfl rfl,
    decodeTableWord_of_encode (i := .reserved 0x101) rfl rfl⟩

end Sys2Proof
end

section
/-! PROOFS. What every command completes, keeps and may write, and the errors of overlapping regions (R22, R23, R122
to R128). -/

namespace Sys2Proof.Machine

open Sys2Proof.Safety

/-! ## Completion and the host's registers (R22, R44, R124) -/

/-- Everything exec can do: complete with the code of a check that fails and nothing else, or complete with the effect of
a command all of whose checks pass. -/
theorem exec_cases {i : Instr} {s t : State} (hexec : exec i s = .next t) :
    (∃ c, (false, c) ∈ checksOf s i ∧ t = s.complete c) ∨
      ((∀ c ∈ checksOf s i, c.1 = true) ∧ t = (effectOf s i).complete .none) := by
  rw [exec_eq_command] at hexec
  rcases command_cases hexec with ⟨c, hfail, ht⟩ | ⟨hpass, ht⟩
  · exact .inl ⟨c, firstError_mem hfail, ht⟩
  · exact .inr ⟨(firstError_none_iff _).mp hpass, ht⟩

/-- What exec answers is completed (R124). -/
theorem completed_of_exec {i : Instr} {s t : State} (hexec : exec i s = .next t) : Completed t t.err := by
  rcases exec_cases hexec with ⟨c, -, rfl⟩ | ⟨-, rfl⟩
  · exact completed_complete _ _
  · exact completed_complete _ _

/-- XOR, UNPACK and PACK change MEM alone. -/
theorem effectOf_keeps_all_but_mem (s : State) {i : Instr} (hi : i ∈ [Instr.xor, .unpack, .pack]) :
    (effectOf s i).state = s.state ∧ (effectOf s i).obit = s.obit ∧ SeedKept s (effectOf s i) ∧
      HostRegistersKept s (effectOf s i) := by
  simp only [List.mem_cons, List.not_mem_nil, or_false] at hi
  rcases hi with rfl | rfl | rfl
  · exact keeps_of_eq_with_mem (xorEffect_eq s)
  · exact keeps_of_eq_with_mem (unpackEffect_eq s)
  · exact keeps_of_eq_with_mem (packEffect_eq s)

/-- The effect of a command leaves every register of the host and the model's own fields. -/
theorem effectOf_keeps_hostRegisters (s : State) (i : Instr) : HostRegistersKept s (effectOf s i) := by
  have hmemOnly := effectOf_keeps_all_but_mem s (i := i)
  cases i with
  | nop | reserved w | seedclr | load | step => simp [effectOf, HostRegistersKept]
  | gen => exact (genEffect_keeps s).2
  | crypt => exact (cryptEffect_keeps s).2
  | xor | unpack | pack =>
    obtain ⟨-, -, -, hregs⟩ := hmemOnly (by decide)
    exact hregs

/-- No command writes a register of the host (R22, R44). -/
theorem exec_keeps_hostRegisters {i : Instr} {s t : State} (hexec : exec i s = .next t) : HostRegistersKept s t := by
  rcases exec_cases hexec with ⟨c, -, rfl⟩ | ⟨-, rfl⟩
  · simp [HostRegistersKept]
  · exact effectOf_keeps_hostRegisters s i

/-! ## STATE, OBIT, the seed and MEM (R23, R35, R37, R43) -/

/-- Which fields the effect of a command may change. -/
theorem effectOf_writes (s : State) (i : Instr) :
    (i ∉ [Instr.load, .step, .gen, .crypt] → (effectOf s i).state = s.state) ∧
    (i ∉ [Instr.step, .gen, .crypt] → (effectOf s i).obit = s.obit) ∧
    (i ≠ .seedclr → SeedKept s (effectOf s i)) ∧
    (i ∉ [Instr.gen, .xor, .crypt, .unpack, .pack] → MemKept s (effectOf s i)) := by
  have hmemOnly := effectOf_keeps_all_but_mem s (i := i)
  cases i with
  | nop | reserved w | seedclr | load | step => simp [effectOf, SeedKept, MemKept]
  | gen => simpa [effectOf] using (genEffect_keeps s).1
  | crypt => simpa [effectOf] using (cryptEffect_keeps s).1
  | xor | unpack | pack =>
    obtain ⟨hstate, hobit, hseed, -⟩ := hmemOnly (by decide)
    simpa using ⟨hstate, hobit, hseed⟩

/-- A step leaves no bit from R on (R145). -/
theorem getLsbD_lfsrStep_above (v taps : DWord) {len : Nat} (hpos : 1 ≤ len) (hmax : len ≤ 64) {j : Nat}
    (hj : len ≤ j) : (lfsrStep v taps len).2.getLsbD j = false := by
  rw [getLsbD_lfsrStep v taps hpos hmax, if_neg (by omega), if_neg (by omega)]

/-- The register of the generator has no bit from R on, after any number of steps from the seed (R152). -/
theorem getLsbD_keystreamState_above (seed taps : DWord) {len : Nat} (hpos : 1 ≤ len) (hmax : len ≤ 64) (i : Nat)
    {j : Nat} (hj : len ≤ j) : (keystreamState seed taps len i).getLsbD j = false := by
  cases i with
  | zero =>
    rw [keystreamState_zero, BitVec.getLsbD_and, getLsbD_ones]
    simp [Nat.not_lt.mpr hj]
  | succ i => rw [keystreamState_succ, getLsbD_lfsrStep_above _ _ hpos hmax hj]

/-- A command that writes STATE and passes its checks leaves no bit of it from R on (R43). -/
theorem getLsbD_effectOf_state_above {s : State} {i : Instr} (hi : i ∈ [Instr.load, .step, .gen, .crypt])
    (hpass : ∀ c ∈ checksOf s i, c.1 = true) {j : Nat} (hj : s.len.toNat ≤ j) :
    (effectOf s i).state.getLsbD j = false := by
  obtain ⟨hpos, hmax⟩ : LenLegal s := by
    obtain ⟨cs, hchecks, -⟩ := checksOf_eq_lenCheck_cons s hi
    exact (lenCheck_pass s).mp (hpass _ (hchecks ▸ List.mem_cons_self))
  simp only [List.mem_cons, List.not_mem_nil, or_false] at hi
  rcases hi with rfl | rfl | rfl | rfl
  · rw [effectOf, getLsbD_loadSeed_state, decide_eq_false (by omega), Bool.false_and]
  · exact getLsbD_lfsrStep_above _ _ hpos hmax hj
  · rw [effectOf, (emitted_genEffect s).state, getLsbD_keystreamState_above _ _ hpos hmax _ hj]
  · obtain ⟨-, -, hapart⟩ := (crypt_checks_pass_iff s).mp hpass
    rw [effectOf, (cryptEffect_spec hapart).1.state, getLsbD_keystreamState_above _ _ hpos hmax _ hj]

/-! ## Overlap (R128) -/

/-- Where an overlap check decides first, the command ends in OVERLAP exactly when what it requires does not hold. -/
theorem exec_overlap_iff {i : Instr} {s : State} (ok : Bool) {cs : List Check}
    (hchecks : firstError (checksOf s i) = firstError (overlapCheck ok :: cs)) (hcs : ∀ d ∈ cs, d.2 ≠ .overlap) :
    exec i s = .next (s.complete .overlap) ↔ ¬ ok = true := by
  rw [exec_eq_complete_iff i s (by decide), hchecks, ← overlapCheck_pass]
  exact firstError_cons_eq_code_iff (c := overlapCheck ok) hcs

/-! ## The statements -/

/-- Settles O29: a command answers the state some completion leaves, and completion clears PEND. -/
theorem everyCommandCompletes : Obligations.EveryCommandCompletes := by
  intro i s
  obtain ⟨t, ht⟩ := command_answers s (checksOf s i) fun _ => effectOf s i
  rw [← exec_eq_command] at ht
  obtain ⟨herr, hdone, hpend⟩ := completed_of_exec ht
  exact ⟨t, ht, ⟨herr, hdone, hpend⟩, (busy_eq_false_iff t).mpr hpend⟩

/-- Settles O31: neither completion nor the effect of a command writes one of these fields. -/
theorem commandsKeepHostRegisters : Obligations.CommandsKeepHostRegisters :=
  fun _ _ _ => exec_keeps_hostRegisters

/-- Settles O33: a failing command writes none of these fields, and a succeeding one those its effect writes. -/
theorem whichCommandsWriteWhat : Obligations.WhichCommandsWriteWhat := by
  intro i s t hexec
  rcases exec_cases hexec with ⟨c, hfail, rfl⟩ | ⟨hpass, rfl⟩
  · refine ⟨fun _ => rfl, fun _ herr => ?_, fun _ => rfl, fun _ => ⟨rfl, rfl, rfl⟩, fun _ _ => rfl⟩
    exact absurd herr (checksOf_code_ne_none _ hfail)
  · obtain ⟨hstate, hobit, hseed, hmem⟩ := effectOf_writes s i
    exact ⟨hstate, fun hi _ j hj => getLsbD_effectOf_state_above hi hpass hj, hobit, hseed, hmem⟩

/-- Settles O38: with the checks before it passed an overlap check decides; XOR's two act as one. -/
theorem illegalOverlapFails : Obligations.IllegalOverlapFails := by
  intro s
  refine ⟨fun hin => ?_, fun hok hin => ?_, fun hin => ?_, fun hin => ?_⟩
  · have hrange : (s.rangeCheck [⟨s.a, s.la⟩, ⟨s.b, s.lb⟩, ⟨s.d, s.la⟩]).1 = true := by simpa using hin
    refine (exec_overlap_iff (i := .xor) _ ((firstError_cons_of_pass hrange _).trans
      (firstError_cons_cons_same_code _ _ _ _)) (by simp)).trans ?_
    simp [XorApart, State.keyLen]
  · have hrange : (s.rangeCheck [⟨s.a, s.la⟩, ⟨s.d, s.la⟩]).1 = true := by simpa using hin
    refine (exec_overlap_iff (i := .crypt) _ ((firstError_generatorChecks hok _).trans
      (firstError_cons_of_pass hrange _)) (by simp)).trans ?_
    simp
  · have hrange : (s.rangeCheck [⟨s.a, s.la⟩, ⟨s.d, 8 * s.la⟩]).1 = true := by simpa using hin
    refine (exec_overlap_iff (i := .unpack) _ (firstError_cons_of_pass hrange _) (by simp)).trans ?_
    rw [disjoint_iff, not_not]
  · have hrange : (s.rangeCheck [⟨s.a, s.la⟩, ⟨s.d, s.packLen⟩]).1 = true := by simpa [State.packLen] using hin
    refine (exec_overlap_iff (i := .pack) _ (firstError_cons_of_pass hrange _) (by simp)).trans ?_
    rw [disjoint_iff, not_not, State.packLen]

end Sys2Proof.Machine
end

section
/-! PROOFS. The invariant: commands, bus writes and changes of the reset input keep MEM canonical and inside MEM_BYTES,
and a pending command's DONE and ERR clear (R9, R68, R121, R240 to R247). -/

namespace Sys2Proof.Machine

open Sys2Proof.Safety

/-! ## MEM under the commands (R68, R127) -/

/-- One write of a loop, inside MEM. -/
theorem memOk_writeByte_keeps {s t : State} {a : Nat} (ht : t.memOk) (hbytes : t.memBytes = s.memBytes)
    (ha : a < s.memBytes) (v : Byte) :
    (t.writeByte a v).memOk ∧ (t.writeByte a v).memBytes = s.memBytes :=
  ⟨memOk_writeByte ht (hbytes ▸ ha) v, hbytes⟩

/-- GEN's checks pass exactly when the generator's conditions hold and its destination is valid. -/
theorem gen_checks_pass_iff (s : State) : (∀ c ∈ checksOf s .gen, c.1 = true) ↔ GenOk s := by
  simp [checksOf, GenOk, GeneratorOk, SeedUsable, and_assoc]

/-- A command whose checks pass writes inside MEM only. -/
theorem memOk_effectOf {s : State} {i : Instr} (hok : s.memOk) (hpass : ∀ c ∈ checksOf s i, c.1 = true) :
    (effectOf s i).memOk := by
  cases i with
  | nop | load | step | seedclr | reserved w => exact hok
  | gen =>
    obtain ⟨-, hin⟩ := (gen_checks_pass_iff s).mp hpass
    exact (memOk_forUp (s := s.loadSeed) s.la hok fun i t hi ht hbytes =>
      memOk_writeByte_keeps (t := t.emit) ht hbytes (show s.d + i < s.memBytes by omega) _).1
  | crypt =>
    obtain ⟨-, ⟨-, hin⟩, -⟩ := (crypt_checks_pass_iff s).mp hpass
    exact (memOk_forUp (s := s.loadSeed) s.la hok fun i t hi ht hbytes =>
      memOk_writeByte_keeps (t := t.emit) ht hbytes (show s.d + i < s.memBytes by omega) _).1
  | xor =>
    obtain ⟨⟨-, -, hin⟩, -⟩ := (xor_checks_pass_iff s).mp hpass
    exact (memOk_forUp s.la hok fun i t hi ht hbytes => memOk_writeByte_keeps ht hbytes (by omega) _).1
  | unpack =>
    obtain ⟨⟨-, hin⟩, -⟩ := (unpack_checks_pass_iff s).mp hpass
    refine (memOk_forUp s.la hok fun i t hi ht hbytes => ?_).1
    rw [← hbytes]
    exact memOk_forUp 8 ht fun k u hk hu hbytes' => memOk_writeByte_keeps hu hbytes' (by omega) _
  | pack =>
    obtain ⟨⟨-, hin⟩, -⟩ := (pack_checks_pass_iff s).mp hpass
    refine (memOk_forUp s.packLen hok fun j t hj ht hbytes => ?_).1
    rw [State.packLen] at hj
    exact memOk_writeByte_keeps ht hbytes (by omega) _

/-- Every command keeps MEM canonical and inside MEM_BYTES. -/
theorem memOk_exec {i : Instr} {s t : State} (hok : s.memOk) (hexec : exec i s = .next t) : t.memOk := by
  rcases exec_cases hexec with ⟨c, -, rfl⟩ | ⟨hpass, rfl⟩
  · exact hok
  · exact memOk_effectOf hok hpass

/-! ## The bus writes (R24, R62, R121, R246) -/

/-- A SEEDCHR write leaves MEM, the parameter, PEND and the reset input. -/
theorem writeSeedchr_keeps (s : State) (w : Word) :
    (s.writeSeedchr w).mem = s.mem ∧ (s.writeSeedchr w).draw = s.draw ∧ (s.writeSeedchr w).memBytes = s.memBytes ∧
      (s.writeSeedchr w).inReset = s.inReset ∧ (s.writeSeedchr w).pend = s.pend := by
  by_cases hvalid : w.toNat % 256 = 0x30 ∨ w.toNat % 256 = 0x31
  · simp [writeSeedchr_valid s hvalid]
  · simp [writeSeedchr_invalid s hvalid]

/-- No register write touches MEM, the parameter or the reset input. -/
theorem writeReg_keeps (s : State) (r : Reg) (v : Word) :
    (s.writeReg r v).mem = s.mem ∧ (s.writeReg r v).draw = s.draw ∧ (s.writeReg r v).memBytes = s.memBytes ∧
      (s.writeReg r v).inReset = s.inReset := by
  cases r with
  | seedchr =>
    obtain ⟨hmem, hdraw, hbytes, hreset, -⟩ := writeSeedchr_keeps s v
    exact ⟨hmem, hdraw, hbytes, hreset⟩
  | _ => exact ⟨rfl, rfl, rfl, rfl⟩

/-- Only a CMD write makes a command pending (R121). -/
theorem writeReg_pend (s : State) {r : Reg} (hr : r ≠ .cmd) (v : Word) : (s.writeReg r v).pend = s.pend := by
  cases r with
  | cmd => exact absurd rfl hr
  | seedchr =>
    obtain ⟨-, -, -, -, hpend⟩ := writeSeedchr_keeps s v
    exact hpend
  | _ => rfl

/-- A pending command has DONE = 0 and ERR = 0 (R121, R247). -/
def PendingClear (s : State) : Prop := s.pend ≠ none → s.done = false ∧ s.err = .none

/-- With nothing pending there is nothing to be clear. -/
theorem pendingClear_of_idle {s : State} (hidle : s.pend = none) : PendingClear s := fun h => absurd hidle h

/-- A register write while idle leaves a pending command's DONE and ERR clear: only CMD makes one pending. -/
theorem pendingClear_writeReg {s : State} (hidle : s.pend = none) (r : Reg) (v : Word) :
    PendingClear (s.writeReg r v) := by
  by_cases hr : r = .cmd
  · subst hr
    exact fun _ => ⟨rfl, rfl⟩
  · exact pendingClear_of_idle ((writeReg_pend s hr v).trans hidle)

/-- A STATUS write clears flags only, so that a pending command's DONE stays 0 (R31). -/
theorem pendingClear_writeStatus {s : State} (h : PendingClear s) (v : Word) : PendingClear (s.writeStatus v) := by
  intro hpend
  obtain ⟨hdone, herr⟩ := h hpend
  simp [hdone, herr]

/-- What a write of a transaction's target keeps: MEM canonical and inside MEM_BYTES, the parameter, the reset input, and
a pending command's DONE and ERR clear. -/
theorem busWrite_keeps {s : State} {o : BitVec 17} {z : Size} {g : Target} (hok : s.memOk) (hclear : PendingClear s)
    (hg : s.target o z = some g) (v : Word) :
    (s.busWrite g z v).memOk ∧ (s.busWrite g z v).memBytes = s.memBytes ∧
      (s.busWrite g z v).inReset = s.inReset ∧ PendingClear (s.busWrite g z v) := by
  by_cases hstatus : g = .reg .status
  · rw [hstatus, busWrite_status]
    exact ⟨hok, rfl, rfl, pendingClear_writeStatus hclear v⟩
  by_cases hbusy : s.pend ≠ none
  · rw [busWrite_busy ((busy_eq_true_iff s).mpr hbusy) hstatus]
    exact ⟨hok, rfl, rfl, hclear⟩
  have hidle : s.pend = none := not_not.mp hbusy
  have hb : s.busy = false := (busy_eq_false_iff s).mpr hidle
  cases g with
  | reg r =>
    obtain ⟨hmem, -, hbytes, hreset⟩ := writeReg_keeps s r v
    rw [busWrite_idle hb]
    refine ⟨?_, hbytes, hreset, pendingClear_writeReg hidle r v⟩
    rwa [State.memOk, hmem, hbytes]
  | window k =>
    obtain ⟨-, -, hin⟩ := target_window hg
    have hwrite : s.busWrite (.window k) z v = s.memWrite k z.bytes v := by simp [State.busWrite, hb]
    obtain ⟨hpend, hbytes⟩ := memWrite_pend_memBytes s k z.bytes v
    have hreset : (s.memWrite k z.bytes v).inReset = s.inReset := by rw [memWrite_eq]
    rw [hwrite]
    exact ⟨memOk_memWrite hok hin v, hbytes, hreset, pendingClear_of_idle (hpend.trans hidle)⟩

/-! ## The turns (R17, R122, R240) -/

/-- Outside reset the invariant asks for MEM, the parameter and the pending command only. -/
theorem invariant_of_not_inReset {t : State} (hreset : t.inReset = false) (hok : t.memOk)
    (hbytes : 1 ≤ t.memBytes ∧ t.memBytes ≤ Config.memBytesMax) (hclear : PendingClear t) : Invariant t :=
  ⟨hok.1, hok.2, hbytes, hclear, fun h => absurd h (by simp [hreset])⟩

/-- The engine's turn keeps the invariant and MEM_BYTES: under the invariant a command is pending outside reset only. -/
theorem engineStep_keeps_invariant {s t : State} (hinv : Invariant s) (hstep : engineStep s = .next t) :
    Invariant t ∧ t.memBytes = s.memBytes := by
  cases hpend : s.pend with
  | none =>
    rw [engineStep_idle hpend] at hstep
    cases hstep
    exact ⟨hinv, rfl⟩
  | some w =>
    obtain ⟨hwf, hinside, hrange, -, hreset⟩ := hinv
    have hout : s.inReset = false := by
      by_contra h
      obtain ⟨hidle, -⟩ := hreset (by simpa using h)
      simp [hpend] at hidle
    rw [engineStep_pending hpend] at hstep
    obtain ⟨-, -, -, -, -, -, -, -, -, hbytes, hlevel, -⟩ := exec_keeps_hostRegisters hstep
    obtain ⟨-, -, hidle⟩ := completed_of_exec hstep
    exact ⟨invariant_of_not_inReset (hlevel.trans hout) (memOk_exec ⟨hwf, hinside⟩ hstep) (hbytes ▸ hrange)
      (pendingClear_of_idle hidle), hbytes⟩

/-- A transaction outside reset keeps the invariant and MEM_BYTES. -/
theorem transact_keeps_invariant {s : State} (hinv : Invariant s) (hout : s.inReset = false) (tr : Transaction) :
    Invariant (s.transact tr).1 ∧ (s.transact tr).1.memBytes = s.memBytes := by
  rcases transact_cases s tr with hsame | ⟨o, z, v, g, -, hg, hwrite⟩
  · rw [hsame]
    exact ⟨hinv, rfl⟩
  · obtain ⟨hwf, hinside, hrange, hclear, -⟩ := hinv
    obtain ⟨hok, hbytes, hlevel, hclear⟩ := busWrite_keeps ⟨hwf, hinside⟩ hclear hg v
    rw [hwrite]
    exact ⟨invariant_of_not_inReset (hlevel.trans hout) hok (hbytes ▸ hrange) hclear, hbytes⟩

/-- The assertion of reset leaves no written byte and nothing pending, and keeps the parameter (R240 to R242). -/
theorem invariant_assertReset {s : State} (hinv : Invariant s) : Invariant s.assertReset := by
  obtain ⟨-, -, hrange, -⟩ := hinv
  exact ⟨rfl, List.forall_mem_nil _, hrange, pendingClear_of_idle rfl, fun _ => ⟨rfl, rfl⟩⟩

/-- The release of reset keeps the invariant. -/
theorem invariant_releaseReset {s : State} (hinv : Invariant s) : Invariant s.releaseReset := by
  obtain ⟨hwf, hinside, hrange, hclear, -⟩ := hinv
  exact invariant_of_not_inReset (t := s.releaseReset) rfl ⟨hwf, hinside⟩ hrange hclear

/-! ## The statements -/

/-- Settles O13: no byte of MEM is written, nothing is pending and reset is not asserted. -/
theorem invariantHoldsAtReset : Obligations.InvariantHoldsAtReset :=
  invariant_of_not_inReset rfl ⟨rfl, List.forall_mem_nil _⟩ (by decide) (pendingClear_of_idle rfl)

/-- Settles O14: a step is one of the turns, and taking the event off the list and leaving a response touch no field of
the invariant. -/
theorem everyStepKeepsInvariant : Obligations.EveryStepKeepsInvariant := by
  intro s t hinv hstep
  have hpop : Invariant s.popEvent := hinv
  rcases step_cases hstep with hengine | ⟨tr, -, hout, rfl⟩ | ⟨-, rfl⟩ | ⟨-, rfl⟩
  · exact engineStep_keeps_invariant (s := s.popEvent) hpop hengine
  · exact transact_keeps_invariant hpop hout tr
  · exact ⟨invariant_assertReset hpop, rfl⟩
  · exact ⟨invariant_releaseReset hpop, rfl⟩

end Sys2Proof.Machine
end

section
/-! PROOFS. The step turn by turn, and a command pending while the host issues transactions (R60, R122, R240, R246,
R251). -/

namespace Sys2Proof.Machine

open Sys2Proof.Safety

/-! ## One equation per turn (R17, R122, R240) -/

section
variable {s : State}

/-- On the engine's turn the step is the engine's, on the state less the event used up. -/
theorem step_of_engine (h : s.agenda = [] ∨ s.agenda.head? = some .engine) : step s = engineStep s.popEvent := by
  rcases h with hempty | hengine
  · rw [popEvent_empty hempty]
    simp [step, takeTurn, hempty]
  · simp [step, takeTurn, hengine]

/-- On the host's turn the step is one transaction, on the state less the event used up. -/
theorem step_of_host {tr : Transaction} (h : s.agenda.head? = some (.host tr)) :
    step s = hostStep tr s.popEvent := by simp [step, takeTurn, h]

/-- The assertion of reset as a step. -/
theorem step_of_assertReset (h : s.agenda.head? = some .assertReset) : step s = .next s.popEvent.assertReset := by
  simp [step, takeTurn, h]

/-- The release of reset as a step. -/
theorem step_of_releaseReset (h : s.agenda.head? = some .releaseReset) :
    step s = .next s.popEvent.releaseReset := by simp [step, takeTurn, h]

end

/-- Settles O6: the engine's turn decodes PEND, and the decoder answers well-formed commands only. -/
theorem engineTurnRunsPendingCommand : Obligations.EngineTurnRunsPendingCommand := by
  intro s hturn
  rw [step_of_engine hturn]
  exact ⟨fun w hpend => ⟨wf_decodeWord w, engineStep_pending (s := s.popEvent) hpend⟩,
    engineStep_idle (s := s.popEvent)⟩

/-- Settles O7: outside reset the host's turn is its transaction. -/
theorem hostTurnPerformsOneTransaction : Obligations.HostTurnPerformsOneTransaction := by
  intro s tr hturn hout
  refine ⟨_, _, rfl, ?_⟩
  rw [step_of_host hturn]
  exact hostStep_next tr hout

/-- Settles O8: the host's turn tests the reset level first. -/
theorem transactionDuringResetFaults : Obligations.TransactionDuringResetFaults := by
  intro s tr hturn hreset
  rw [step_of_host hturn]
  exact if_pos hreset

/-- Settles O9: every register reads the reset column, no byte of MEM is written, and the draw is another one. -/
theorem assertedResetSetsResetValues : Obligations.AssertedResetSetsResetValues := by
  intro s hturn
  exact ⟨_, step_of_assertReset hturn, readReg_assertReset s.popEvent, rfl, rfl, rfl, rfl, rfl, Nat.succ_ne_self _,
    readByte_of_mem_eq_nil rfl⟩

/-- Settles O11: the release clears the level, which is all that the host's turn tests. -/
theorem releasedResetAcceptsTransactions : Obligations.ReleasedResetAcceptsTransactions := by
  intro s hturn
  exact ⟨step_of_releaseReset hturn, fun tr => ⟨_, hostStep_next tr rfl⟩⟩

/-! ## The fields no command reads (R122, R246) -/

/-- The state with other values in the fields no command reads: DONE, OVR, the events to come and the response. -/
def State.withUnread (s : State) (done ovr : Bool) (agenda : List Event) (resp : Option Response) : State :=
  { s with done := done, ovr := ovr, agenda := agenda, resp := resp }

/-- A loop whose body commutes with a map of the state commutes with it. -/
theorem forUp_map {σ : Type} {body : Nat → σ → σ} (f : σ → σ) (h : ∀ i y, body i (f y) = f (body i y)) (n : Nat)
    (x : σ) : forUp n body (f x) = f (forUp n body x) := by
  induction n with
  | zero => rfl
  | succ n ih => rw [forUp_succ, ih, h, forUp_succ]

section
variable (done ovr : Bool) (agenda : List Event) (resp : Option Response)

/-- The checks of a command do not depend on those fields. -/
theorem checksOf_withUnread (s : State) (i : Instr) :
    checksOf (s.withUnread done ovr agenda resp) i = checksOf s i := by cases i <;> rfl

/-- The effect of a command neither reads nor writes those fields. -/
theorem effectOf_withUnread (s : State) (i : Instr) :
    effectOf (s.withUnread done ovr agenda resp) i = (effectOf s i).withUnread done ovr agenda resp := by
  have hloop (n : Nat) (body : Nat → State → State) (x : State)
      (h : ∀ i (y : State), body i (y.withUnread done ovr agenda resp) = (body i y).withUnread done ovr agenda resp) :
      forUp n body (x.withUnread done ovr agenda resp) = (forUp n body x).withUnread done ovr agenda resp :=
    forUp_map (fun y => y.withUnread done ovr agenda resp) h n x
  cases i with
  | nop | load | step | seedclr | reserved w => rfl
  | gen => exact hloop s.la (genUnit s.d) s.loadSeed fun _ _ => rfl
  | crypt => exact hloop s.la (cryptByte s.a s.d) s.loadSeed fun _ _ => rfl
  | xor => exact hloop s.la (xorByte s.a s.b s.d s.keyLen) s fun _ _ => rfl
  | unpack =>
    exact hloop s.la (fun i t => forUp 8 (unpackBit s.a s.d i) t) s fun i t =>
      hloop 8 (unpackBit s.a s.d i) t fun _ _ => rfl
  | pack => exact hloop s.packLen (packByte s.a s.la s.d) s fun _ _ => rfl

/-- A command does the same whatever those fields hold; completion sets DONE. -/
theorem exec_withUnread {i : Instr} {s u : State} (hexec : exec i s = .next u) :
    exec i (s.withUnread done ovr agenda resp) = .next (u.withUnread true ovr agenda resp) := by
  rw [exec_eq_command] at hexec ⊢
  rw [checksOf_withUnread]
  rcases command_cases hexec with ⟨c, hfail, rfl⟩ | ⟨hpass, rfl⟩
  · exact command_error hfail
  · rw [command_ok hpass, effectOf_withUnread]
    rfl

end

/-! ## Transactions while a command is pending (R246) -/

/-- While a command is pending a transaction can change DONE and OVR only. -/
theorem transact_busy {s : State} (hbusy : s.pend ≠ none) (tr : Transaction) :
    ∃ done ovr, (s.transact tr).1 = { s with done := done, ovr := ovr } := by
  rcases transact_cases s tr with hsame | ⟨o, z, v, g, -, -, hwrite⟩
  · exact ⟨s.done, s.ovr, hsame⟩
  · by_cases hstatus : g = .reg .status
    · rw [hwrite, hstatus, busWrite_status]
      exact ⟨_, _, rfl⟩
    · rw [hwrite, busWrite_busy ((busy_eq_true_iff s).mpr hbusy) hstatus]
      exact ⟨_, _, rfl⟩

/-- While a command is pending the host's turn changes only fields no command reads. -/
theorem step_of_host_busy {s : State} {tr : Transaction} {rest : List Event} (hbusy : s.pend ≠ none)
    (hout : s.inReset = false) (hagenda : s.agenda = .host tr :: rest) :
    ∃ done ovr resp, step s = .next (s.withUnread done ovr rest resp) := by
  obtain ⟨done, ovr, hchange⟩ := transact_busy (s := s.popEvent) hbusy tr
  have hrest : s.popEvent.agenda = rest := by simp [hagenda]
  refine ⟨done, ovr, some (s.popEvent.transact tr).2, ?_⟩
  rw [step_of_host (by rw [hagenda]; rfl), hostStep_next tr (s := s.popEvent) hout, hchange, hrest]
  rfl

/-- After a step that answers, a longer run goes on from the state it answers. -/
theorem run_succ_of_step {s t : State} (hstep : step s = .next t) (n : Nat) :
    Host.Core.run Sys2Proof.core (n + 1) s = Host.Core.run Sys2Proof.core n t := by
  have hcore : Sys2Proof.core.step s = .next t := hstep
  simp only [Host.Core.run, hcore]

/-- The transactions used up, the engine's turn runs the pending command, on a state that differs in the fields no
command reads. -/
theorem run_transactions_then_engine {s : State} {w : Word} (trs : List Transaction) (hpend : s.pend = some w)
    (hout : s.inReset = false) (hagenda : s.agenda = trs.map Event.host) {u : State}
    (hexec : exec (decodeWord w) s = .next u) :
    ∃ ovr resp, Host.Core.run Sys2Proof.core (trs.length + 1) s = .next (u.withUnread true ovr [] resp) := by
  induction trs generalizing s u with
  | nil =>
    have hself : s.withUnread s.done s.ovr [] s.resp = s := by
      rw [State.withUnread, ← List.map_nil (f := Event.host), ← hagenda]
    have hstep : step s = .next (u.withUnread true s.ovr [] s.resp) := by
      rw [step_of_engine (.inl hagenda), popEvent_empty hagenda, engineStep_pending hpend, ← hself]
      exact exec_withUnread _ _ _ _ hexec
    exact ⟨s.ovr, s.resp, run_succ_of_step hstep 0⟩
  | cons tr trs ih =>
    obtain ⟨done, ovr, resp, hstep⟩ := step_of_host_busy (by simp [hpend]) hout hagenda
    obtain ⟨ovr', resp', hrun⟩ := ih (s := s.withUnread done ovr (trs.map Event.host) resp) hpend hout rfl
      (exec_withUnread done ovr _ resp hexec)
    exact ⟨ovr', resp', (run_succ_of_step hstep _).trans hrun⟩

/-- Settles O15: the transactions change only fields no command reads, so that the command ends as it would have at
once. -/
theorem busyWindowNeverChangesCommand : Obligations.BusyWindowNeverChangesCommand := by
  intro s w trs hpend hout hagenda
  obtain ⟨u, hexec, ⟨-, hdone, hidle⟩, -⟩ := everyCommandCompletes (decodeWord w) s
  obtain ⟨ovr, resp, hrun⟩ := run_transactions_then_engine trs hpend hout hagenda hexec
  refine ⟨_, u, hrun, hexec, ?_, hidle, rfl⟩
  rw [State.withUnread, hdone]

end Sys2Proof.Machine
end

section
/-! PROOFS. The bus: which accesses get OKAY, the bytes of the MEM window, and what each register reads before and after
a write (R12, R24 to R45, R60 to R64). -/

namespace Sys2Proof.Machine

open Sys2Proof.Safety

/-! ## The halves of a 64-bit register (R12) -/

/-- The low word holds bits 31:0. -/
theorem getLsbD_loWord (v : DWord) {j : Nat} (hj : j < 32) : (loWord v).getLsbD j = v.getLsbD j := by
  simp [loWord, hj]

/-- The high word holds bits 63:32. -/
theorem getLsbD_hiWord (v : DWord) {j : Nat} (hj : j < 32) : (hiWord v).getLsbD j = v.getLsbD (32 + j) := by
  simp [hiWord, hj]

/-- While idle the host reads STATE itself (R43). -/
theorem stateRead_idle {s : State} (hidle : s.pend = none) : s.stateRead = s.state := by
  rw [State.stateRead, (busy_eq_false_iff s).mpr hidle]
  rfl

/-! ## Responses and the window (R60 to R64) -/

/-- Settles O16: an access reaches something exactly when R61 or R62 allows it, and only what it reaches is answered
OKAY. -/
theorem busErrorExactly : Obligations.BusErrorExactly := by
  intro s o z
  rw [← target_ne_none_iff]
  refine ⟨fun hreach => ?_, fun hform => ?_⟩
  · obtain ⟨g, hg⟩ := Option.ne_none_iff_exists'.mp hreach
    simp [State.transact, hg]
  · simp [State.transact, not_not.mp hform]

/-- Settles O17: each offset of the map is its register's own, and STATE is read in halves. -/
theorem registerMapOffsets : Obligations.RegisterMapOffsets := by
  refine ⟨fun s => ?_, fun s => rfl, fun s hidle j hj => ⟨?_, ?_⟩⟩
  · simp only [List.forall_mem_cons]
    exact ⟨transact_read_reg s .ctrl, transact_read_reg s .status, transact_read_reg s .cmd,
      transact_read_reg s .seedctl, transact_read_reg s .seedchr, transact_read_reg s .seedLo,
      transact_read_reg s .seedHi, transact_read_reg s .tapsLo, transact_read_reg s .tapsHi,
      transact_read_reg s .stateLo, transact_read_reg s .stateHi, transact_read_reg s .addrA,
      transact_read_reg s .lenA, transact_read_reg s .addrB, transact_read_reg s .lenB,
      transact_read_reg s .addrD, transact_read_reg s .memsize, List.forall_mem_nil _⟩
  · rw [State.readReg, stateRead_idle hidle, getLsbD_loWord _ hj]
  · rw [State.readReg, stateRead_idle hidle, getLsbD_hiWord _ hj]

/-- Byte i of the data of a read is the byte at its place (R64). -/
theorem extractLsb'_memRead (s : State) (k : Nat) {n i : Nat} (hn : n ≤ 4) (hi : i < n) :
    (s.memRead k n).extractLsb' (8 * i) 8 = s.readByte (k + i) := by
  refine BitVec.eq_of_getLsbD_eq fun j hj => ?_
  rw [BitVec.getLsbD_extractLsb', getLsbD_memRead s k n (by omega), show (8 * i + j) / 8 = i by omega,
    show (8 * i + j) % 8 = j by omega]
  simp [hi, hj]

/-- The data of a read is zero-extended from the bytes read (R64). -/
theorem memRead_lt (s : State) (k n : Nat) : (s.memRead k n).toNat < 2 ^ (8 * n) := by
  refine Nat.lt_pow_two_of_testBit _ fun j hj => ?_
  rw [BitVec.testBit_toNat]
  by_cases hword : j < 32
  · rw [getLsbD_memRead s k n hword, decide_eq_false (by omega), Bool.false_and]
  · exact BitVec.getLsbD_of_ge _ _ (not_lt.mp hword)

/-- A size is at most the four bytes of a word (R60). -/
theorem Size.bytes_le (z : Size) : z.bytes ≤ 4 := by cases z <;> decide

/-- Settles O18: the access reaches the window, whose data holds the bytes in their places. -/
theorem windowReadIsLittleEndian : Obligations.WindowReadIsLittleEndian := by
  intro s k z hidle hmax halign hin
  refine ⟨s.memRead k z.bytes, ?_, fun i hi => extractLsb'_memRead s k z.bytes_le hi, memRead_lt s k z.bytes⟩
  have hb := (busy_eq_false_iff s).mpr hidle
  simp [State.transact, target_memOffset hmax hin, halign, State.busRead, hb]

/-- Settles O19: the access reaches the window, and its write is a loop over those bytes of MEM alone. -/
theorem windowWriteIsLittleEndian : Obligations.WindowWriteIsLittleEndian := by
  intro s k z v hidle hmax halign hin
  refine ⟨_, transact_write_window v hidle hmax halign hin, fun i hi => ?_, fun x hx => ?_, memWrite_eq s k z.bytes v⟩
  · rw [readByte_memWrite, if_pos (by omega), Nat.add_sub_cancel_left]
    refine BitVec.eq_of_getLsbD_eq fun j hj => ?_
    rw [BitVec.getLsbD_setWidth, BitVec.getLsbD_ushiftRight, BitVec.getLsbD_extractLsb']
  · rw [readByte_memWrite, if_neg (by omega)]

/-! ## Register writes while idle (R24) -/

/-- While idle the state after a write to a register is that register's write. -/
theorem afterBus_regWrite_idle {s : State} (hidle : s.pend = none) (r : Reg) (v : Word) :
    afterBus s (regWrite r v) = s.writeReg r v := by
  rw [afterBus, transact_regWrite, busWrite_idle ((busy_eq_false_iff s).mpr hidle)]

/-! ## CTRL and SEEDCTL (R28 to R30, R39) -/

/-- A field of 7 bits has no bit from 7 on. -/
theorem getLsbD_setWidth_seven (v : BitVec 7) {j : Nat} (hj : j < 32) :
    (v.setWidth 32).getLsbD j = if j < 7 then v.getLsbD j else false := by
  split_ifs with hlow
  · simp [hj]
  · simp [BitVec.getLsbD_of_ge v j (not_lt.mp hlow)]

/-- The numbers of the policies fit two bits (R30). -/
theorem getLsbD_keyPolicy_toWord_of_le (p : KeyPolicy) {j : Nat} (hj : 2 ≤ j) : p.toWord.getLsbD j = false := by
  have hlt : p.toWord.toNat < 2 ^ 2 := by cases p <;> decide
  exact Nat.testBit_lt_two_pow (hlt.trans_le (Nat.pow_le_pow_right (by decide) hj))

/-- A policy shifted to its place in CTRL stands in bits 9:8 (R28). -/
theorem getLsbD_keyPolicy_toWord_shiftLeft (p : KeyPolicy) {j : Nat} (hj : j < 32) :
    (p.toWord <<< 8).getLsbD j = if j = 8 ∨ j = 9 then p.toWord.getLsbD (j - 8) else false := by
  rw [BitVec.getLsbD_shiftLeft]
  split_ifs with hin
  · simp [hj, show ¬ j < 8 by omega]
  · by_cases h8 : j < 8
    · simp [h8]
    · simp [getLsbD_keyPolicy_toWord_of_le p (show 2 ≤ j - 8 by omega)]

/-- Bit by bit, what CTRL reads as (R28). -/
theorem getLsbD_ctrlWord (s : State) {j : Nat} (hj : j < 32) :
    s.ctrlWord.getLsbD j =
      if j < 7 then s.len.getLsbD j else if j = 8 ∨ j = 9 then s.keychk.toWord.getLsbD (j - 8) else false := by
  rw [State.ctrlWord, BitVec.getLsbD_or, getLsbD_setWidth_seven _ hj, getLsbD_keyPolicy_toWord_shiftLeft _ hj]
  split_ifs with hlow hpolicy
  · omega
  · rw [Bool.or_false]
  · rw [Bool.false_or]
  · rfl

/-- Bit by bit, what SEEDCTL reads as (R39). -/
theorem getLsbD_seedctlWord (s : State) {j : Nat} (hj : j < 32) :
    s.seedctlWord.getLsbD j = if j < 7 then s.cnt.getLsbD j else if j = 8 then s.bad else false := by
  rw [State.seedctlWord, BitVec.getLsbD_or, getLsbD_setWidth_seven _ hj, getLsbD_flagWord_shiftLeft _ _ hj]
  split_ifs with hlow hbad
  · simp [show j ≠ 8 by omega]
  · simp [hbad]
  · simp [hbad]

/-- The policy written holds the two bits written, but the old policy where both are 1 (R30). -/
theorem getLsbD_keyPolicy_written (p : KeyPolicy) (v : BitVec 2) {j : Nat} (hj : j < 2) :
    (p.written v).toWord.getLsbD j = if v.getLsbD 0 && v.getLsbD 1 then p.toWord.getLsbD j else v.getLsbD j := by
  have hv : v = 0 ∨ v = 1 ∨ v = 2 ∨ v = 3 := by revert v; decide
  have hplace : j = 0 ∨ j = 1 := by omega
  rcases hv with rfl | rfl | rfl | rfl
  · rcases hplace with rfl | rfl <;> rfl
  · rcases hplace with rfl | rfl <;> rfl
  · rcases hplace with rfl | rfl <;> rfl
  · rfl

/-- No policy has the number 3 (R30). -/
theorem keyPolicy_toWord_ne_three (p : KeyPolicy) : ¬ (p.toWord.getLsbD 0 = true ∧ p.toWord.getLsbD 1 = true) := by
  cases p <;> decide

/-- Bit by bit, what CTRL reads as after a write of it (R28 to R30). -/
theorem getLsbD_ctrlWord_writeCtrl (s : State) (v : Word) {j : Nat} (hj : j < 32) :
    (s.writeCtrl v).ctrlWord.getLsbD j =
      if j < 7 then v.getLsbD j
      else if j = 8 ∨ j = 9 then (if v.getLsbD 8 && v.getLsbD 9 then s.ctrlWord.getLsbD j else v.getLsbD j)
      else false := by
  obtain ⟨hlen, hkeychk, -⟩ := writeCtrl_fields s v
  rw [getLsbD_ctrlWord _ hj, getLsbD_ctrlWord s hj, hlen, hkeychk]
  by_cases hlow : j < 7
  · simp [hlow]
  · by_cases hpolicy : j = 8 ∨ j = 9
    · simp only [hlow, hpolicy, if_true, if_false]
      rw [getLsbD_keyPolicy_written _ _ (by omega), BitVec.getLsbD_extractLsb', BitVec.getLsbD_extractLsb',
        BitVec.getLsbD_extractLsb', show 8 + (j - 8) = j by omega]
      simp [show j - 8 < 2 by omega]
    · simp only [hlow, hpolicy, if_false]

/-- CTRL never reads 3 in its KEYCHK field (R30). -/
theorem ctrlWord_keychk_ne_three (s : State) : ¬ (s.ctrlWord.getLsbD 8 = true ∧ s.ctrlWord.getLsbD 9 = true) := by
  rw [getLsbD_ctrlWord s (by decide), getLsbD_ctrlWord s (by decide)]
  exact keyPolicy_toWord_ne_three s.keychk

/-- Bit by bit, what SEEDCTL reads as after a write of it (R39). -/
theorem getLsbD_seedctlWord_writeSeedctl (s : State) (v : Word) {j : Nat} (hj : j < 32) :
    (s.writeSeedctl v).seedctlWord.getLsbD j = if j < 7 ∨ j = 8 then v.getLsbD j else false := by
  rw [getLsbD_seedctlWord _ hj]
  by_cases hlow : j < 7
  · simp [State.writeSeedctl, hlow]
  · by_cases hbad : j = 8
    · simp [State.writeSeedctl, hbad]
    · simp [hlow, hbad]

/-- Settles O24: the fields stand in their places in both words, a write puts the written bits there, and a KEYCHK of 3
leaves the old policy. -/
theorem controlRegistersReadBack : Obligations.ControlRegistersReadBack := by
  refine ⟨⟨rfl, rfl, rfl⟩, fun s j hj => ⟨getLsbD_ctrlWord s hj, getLsbD_seedctlWord s hj⟩, fun s v hidle =>
    ⟨fun t ht => ?_, fun t ht => ?_⟩⟩
  · rw [afterBus_regWrite_idle hidle] at ht
    subst ht
    exact ⟨fun j hj => getLsbD_ctrlWord_writeCtrl s v hj, ctrlWord_keychk_ne_three _, rfl⟩
  · rw [afterBus_regWrite_idle hidle] at ht
    subst ht
    exact ⟨fun j hj => getLsbD_seedctlWord_writeSeedctl s v hj, rfl⟩

/-! ## The plain registers (R41, R42, R44) -/

/-- The registers that read back all 32 bits written. -/
def plainRegs : List Reg := [.seedLo, .seedHi, .tapsLo, .tapsHi, .addrA, .lenA, .addrB, .lenB, .addrD]

/-- After a write to a plain register it reads the word written, and every other register as before. -/
theorem readReg_writeReg_plain (s : State) {r : Reg} (hr : r ∈ plainRegs) (v : Word) (q : Reg) :
    (s.writeReg r v).readReg q = if q = r then v else s.readReg q := by
  cases r with
  | seedLo =>
    cases q with
    | seedLo => exact loWord_withLo s.seed v
    | seedHi => exact hiWord_withLo s.seed v
    | _ => rfl
  | seedHi =>
    cases q with
    | seedLo => exact loWord_withHi s.seed v
    | seedHi => exact hiWord_withHi s.seed v
    | _ => rfl
  | tapsLo =>
    cases q with
    | tapsLo => exact loWord_withLo s.taps v
    | tapsHi => exact hiWord_withLo s.taps v
    | _ => rfl
  | tapsHi =>
    cases q with
    | tapsLo => exact loWord_withHi s.taps v
    | tapsHi => exact hiWord_withHi s.taps v
    | _ => rfl
  | addrA | lenA | addrB | lenB | addrD => cases q <;> rfl
  | ctrl | status | cmd | seedctl | seedchr | stateLo | stateHi | memsize => exact absurd hr (by decide)

/-- Settles O25: the halves of SEED and TAPS stand side by side, and a plain register's write stores the whole word there
and touches neither MEM nor PEND. -/
theorem plainRegistersReadBack : Obligations.PlainRegistersReadBack := by
  refine ⟨fun s => ⟨fun j hj => ⟨getLsbD_loWord _ hj, getLsbD_hiWord _ hj, getLsbD_loWord _ hj, getLsbD_hiWord _ hj⟩,
    rfl, rfl, rfl, rfl, rfl⟩, fun s v hidle r hr => ?_⟩
  have hread := readReg_writeReg_plain s (r := r) hr v
  obtain ⟨hmem, hdraw, -, -⟩ := writeReg_keeps s r v
  have hcmd : r ≠ .cmd := by
    rintro rfl
    exact absurd hr (by decide)
  rw [afterBus_regWrite_idle hidle]
  exact ⟨(hread r).trans (if_pos rfl), fun q hq => (hread q).trans (if_neg hq), readByte_congr hmem hdraw,
    (writeReg_pend s hcmd v).trans hidle⟩

end Sys2Proof.Machine
end
